-- ==== Sys2Proof/Word.lean ====
section
/-! DEFINITION. The word types of the block (spec/00_scope.md R9 to R11, spec/30_encoding.md R80). Every value is
unsigned (R9), bit 0 is the least significant bit, and `+` wraps (R10), as BitVec's does. -/

namespace Sys2Proof

/-- `u32`: a CSR value, a SHA-256 word (R8 `CSR_DATA_BITS`, `WORD_BITS`; R10). -/
abbrev Word := BitVec 32

/-- One byte of a stream or of the block buffer (R8 `STREAM_BITS`, R11). -/
abbrev Byte := BitVec 8

/-- `u64`: the bit length in the SHA-256 padding (R10, spec/20_memory.md R63). -/
abbrev DWord := BitVec 64

/-- The 41-bit event word (spec/30_encoding.md R80). -/
abbrev EventWord := BitVec 41

/-- A CSR word index 0..63 (R8 `CSR_ADDR_WORDS`). -/
abbrev CsrIndex := BitVec 6

end Sys2Proof
end

