-- ==== Sys2Proof/Config.lean ====
section
/-! DEFINITION. What an implementation fixes and the spec leaves as a parameter (spec/00_scope.md R8,
spec/92_eei_decisions.md "OPEN parameters"), and the free values of spec/93_implementation_defined.md. -/

namespace Sys2Proof

/-- The configuration of one instance of the block (R8). `shaPresent` is the parameter `SHA_PRESENT`. -/
structure Config where
  shaPresent : Bool
deriving DecidableEq, Repr

/-- The block as built: `SHA_PRESENT = true` (R8, D8). -/
def Config.asBuilt : Config := { shaPresent := true }

/-- A configuration without the SHA-256 engine (R225, program P6). -/
def Config.withoutSha : Config := { shaPresent := false }

/-- What `csr_rdata` shows in a cycle that performs no CSR read, or while `rst_n = 0`: any value
(spec/70_reset_and_hazards.md R251, 93 K-7). A FREE VALUE: it has no body, so nothing can evaluate it (log 12). -/
opaque Config.freeRdata : Nat → Word

/-- What `out_data` shows while `rst_n = 0`: any value (spec/93_implementation_defined.md K-8; R251 does not list the
port). A FREE VALUE (log 24). -/
opaque Config.freeOutData : Nat → Byte

/-- OPEN parameter behind `T_GEN` (R8, R270, D19): no value in any source. -/
opaque Config.genSlack : Nat
/-- OPEN parameter behind `T_COMPRESS`. -/
opaque Config.compressSlack : Nat
/-- OPEN parameter behind `T_FINALIZE`. -/
opaque Config.finalizeSlack : Nat
/-- OPEN parameter behind `T_START`. -/
opaque Config.startSlack : Nat
/-- OPEN parameter behind `T_RST`. -/
opaque Config.rstSlack : Nat

/-- `T_GEN`: finite, at least 1, otherwise unknown (92 "OPEN parameters"); used only as weak fairness (R270, log 15). -/
def Config.tGen : Nat := Config.genSlack + 1
/-- `T_COMPRESS`, as `T_GEN`. -/
def Config.tCompress : Nat := Config.compressSlack + 1
/-- `T_FINALIZE`, as `T_GEN`. -/
def Config.tFinalize : Nat := Config.finalizeSlack + 1
/-- `T_START`, as `T_GEN`. No rule depends on it. -/
def Config.tStart : Nat := Config.startSlack + 1
/-- `T_RST`: the least number of clock edges of reset assertion (R252). No rule depends on its value. -/
def Config.tRst : Nat := Config.rstSlack + 1

end Sys2Proof
end

