-- ==== Sys2Proof/Syntax.lean ====
section
/-! DEFINITION. The events of the block, its "instructions" (spec/00_scope.md R2, spec/30_encoding.md R81, R87):
one constructor for each of the 26 rows of spec/opcode_table.json. -/

namespace Sys2Proof

/-- One event. The index of an RSVD or UNMAPPED access is the whole 6-bit word index (R179, R181: "Operands: the
index"); `k` of DIGESTk is `addr[2:0]` (R87). A write carries its 32-bit `data`. -/
inductive Instr where
  | csrRdId
  | csrRdCtrl
  | csrRdStatus
  | csrRdLength
  | csrRdCount
  | csrRdCaps
  | csrRdRsvd (a : CsrIndex)
  | csrRdDigest (k : BitVec 3)
  | csrRdUnmappedLow (a : CsrIndex)
  | csrRdUnmappedHigh (a : CsrIndex)
  | csrWrId (v : Word)
  | csrWrCtrl (v : Word)
  | csrWrStatus (v : Word)
  | csrWrLength (v : Word)
  | csrWrCount (v : Word)
  | csrWrCaps (v : Word)
  | csrWrRsvd (a : CsrIndex) (v : Word)
  | csrWrDigest (k : BitVec 3) (v : Word)
  | csrWrUnmappedLow (a : CsrIndex) (v : Word)
  | csrWrUnmappedHigh (a : CsrIndex) (v : Word)
  | inXfer (b : Byte)
  | outXfer
  | gen
  | compress
  | finalize
  | reset
deriving DecidableEq, Repr

end Sys2Proof
end

