-- ==== Sys2Proof/WellFormed.lean ====
section
/-! DEFINITION. Which terms of Instr are events of the block: the index of an RSVD or UNMAPPED access lies in its
row's range (spec/30_encoding.md R87, spec/20_memory.md R64). Every other operand is legal at every value (R83, R85). -/

namespace Sys2Proof

/-- The reserved words 6 and 7 (R37, R179). -/
def isRsvdIndex (a : CsrIndex) : Bool := decide (a = 6) || decide (a = 7)

/-- The unmapped words 16..31 (R37, R181, first row). -/
def isUnmappedLowIndex (a : CsrIndex) : Bool := decide (16 ≤ a) && decide (a < 32)

/-- The unmapped words 32..63 (R37, R181, second row). -/
def isUnmappedHighIndex (a : CsrIndex) : Bool := decide (32 ≤ a)

/-- The operands of `i` are ones its row's pattern admits. No word decodes to a term that is not well formed; exec gives
such a term its constructor's effect (log 16). -/
def Instr.wf : Instr → Bool
  | .csrRdRsvd a => isRsvdIndex a
  | .csrRdUnmappedLow a => isUnmappedLowIndex a
  | .csrRdUnmappedHigh a => isUnmappedHighIndex a
  | .csrWrRsvd a _ => isRsvdIndex a
  | .csrWrUnmappedLow a _ => isUnmappedLowIndex a
  | .csrWrUnmappedHigh a _ => isUnmappedHighIndex a
  | .csrRdId | .csrRdCtrl | .csrRdStatus | .csrRdLength | .csrRdCount | .csrRdCaps | .csrRdDigest _ => true
  | .csrWrId _ | .csrWrCtrl _ | .csrWrStatus _ | .csrWrLength _ | .csrWrCount _ | .csrWrCaps _
  | .csrWrDigest _ _ => true
  | .inXfer _ | .outXfer | .gen | .compress | .finalize | .reset => true

end Sys2Proof
end

