-- ==== Sys2Proof/Decode.lean ====
section
/-! DEFINITION. The event word's decoder, total on every word and rejecting by name, its encoder, and the opcode map
as a table (spec/30_encoding.md R80 to R87). -/

namespace Sys2Proof

/-- Why a word spells no event (R84). -/
inductive Reject where
  /-- kind 0 with `data ≠ 0` -/
  | readDataNonzero
  /-- kind 2 with `addr ≠ 0` -/
  | inAddrNonzero
  /-- kind 2 with `data[31:8] ≠ 0` -/
  | inDataNonzero
  /-- kinds 3 to 7 with `addr ≠ 0` -/
  | addrNonzero
  /-- kinds 3 to 7 with `addr = 0` and `data ≠ 0` -/
  | dataNonzero
  /-- a number of more than 41 bits, which is no event word at all (R80; log 4) -/
  | tooWide
deriving DecidableEq, Repr

/-- Bits 40:38 (R80). -/
def kindOf (w : EventWord) : BitVec 3 := w.extractLsb' 38 3
/-- Bits 37:32 (R80). -/
def addrOf (w : EventWord) : CsrIndex := w.extractLsb' 32 6
/-- Bits 31:0 (R80). -/
def dataOf (w : EventWord) : Word := w.extractLsb' 0 32

/-- The event of a CSR read at word index `a`: the address map of R64 and R87. -/
def readEvent (a : CsrIndex) : Instr :=
  if a = 0 then .csrRdId
  else if a = 1 then .csrRdCtrl
  else if a = 2 then .csrRdStatus
  else if a = 3 then .csrRdLength
  else if a = 4 then .csrRdCount
  else if a = 5 then .csrRdCaps
  else if a < 8 then .csrRdRsvd a
  else if a < 16 then .csrRdDigest (a.extractLsb' 0 3)
  else if a < 32 then .csrRdUnmappedLow a
  else .csrRdUnmappedHigh a

/-- The event of a CSR write of `v` at word index `a`: the address map of R64 and R87. -/
def writeEvent (a : CsrIndex) (v : Word) : Instr :=
  if a = 0 then .csrWrId v
  else if a = 1 then .csrWrCtrl v
  else if a = 2 then .csrWrStatus v
  else if a = 3 then .csrWrLength v
  else if a = 4 then .csrWrCount v
  else if a = 5 then .csrWrCaps v
  else if a < 8 then .csrWrRsvd a v
  else if a < 16 then .csrWrDigest (a.extractLsb' 0 3) v
  else if a < 32 then .csrWrUnmappedLow a v
  else .csrWrUnmappedHigh a v

/-- Kind 0: `data` must be zero (R84). -/
def decodeRead (a : CsrIndex) (d : Word) : Except Reject Instr :=
  if d = 0 then .ok (readEvent a) else .error .readDataNonzero

/-- Kind 2: `addr` and `data[31:8]` must be zero; the byte is `data[7:0]` (R80, R84). -/
def decodeIn (a : CsrIndex) (d : Word) : Except Reject Instr :=
  if a ≠ 0 then .error .inAddrNonzero
  else if d.extractLsb' 8 24 ≠ 0 then .error .inDataNonzero
  else .ok (.inXfer (d.extractLsb' 0 8))

/-- Kinds 3 to 7 carry no operand: `addr` and `data` must be zero (R84). -/
def decodeBare (i : Instr) (a : CsrIndex) (d : Word) : Except Reject Instr :=
  if a ≠ 0 then .error .addrNonzero else if d ≠ 0 then .error .dataNonzero else .ok i

/-- The decoder: `kind` alone selects the format (R81, R86), then `addr` for kinds 0 and 1 (R87). -/
def decode (w : EventWord) : Except Reject Instr :=
  if kindOf w = 0 then decodeRead (addrOf w) (dataOf w)
  else if kindOf w = 1 then .ok (writeEvent (addrOf w) (dataOf w))
  else if kindOf w = 2 then decodeIn (addrOf w) (dataOf w)
  else if kindOf w = 3 then decodeBare .outXfer (addrOf w) (dataOf w)
  else if kindOf w = 4 then decodeBare .gen (addrOf w) (dataOf w)
  else if kindOf w = 5 then decodeBare .compress (addrOf w) (dataOf w)
  else if kindOf w = 6 then decodeBare .finalize (addrOf w) (dataOf w)
  else decodeBare .reset (addrOf w) (dataOf w)

/-- The decoder on a number of any size: an event word has 41 bits and no more (R80, R86; log 4). -/
def decodeNat (w : Nat) : Except Reject Instr :=
  if w < 2 ^ 41 then decode (BitVec.ofNat 41 w) else .error .tooWide

/-- What the decoder reads from a word of spec/opcode_table.json given as a number; `none` where it refuses. The
event word is the spelling of signal activity (R84) and is stored nowhere, so no byte order enters. -/
def decodeTableWord (nbits w : Nat) : Option Instr :=
  match decodeNat (w % 2 ^ nbits) with
  | .ok i => some i
  | .error _ => none

/-- The word with the three fields of R80. -/
def eventWord (kind : BitVec 3) (addr : CsrIndex) (data : Word) : EventWord := kind ++ addr ++ data

/-- The word index of `DIGESTk` (R64: `8 + k`). -/
def digestIndex (k : BitVec 3) : CsrIndex := (1#3) ++ k

/-- The encoder, from the kinds of R81 and the word indices of R64. -/
def encode : Instr → EventWord
  | .csrRdId => eventWord 0 0 0
  | .csrRdCtrl => eventWord 0 1 0
  | .csrRdStatus => eventWord 0 2 0
  | .csrRdLength => eventWord 0 3 0
  | .csrRdCount => eventWord 0 4 0
  | .csrRdCaps => eventWord 0 5 0
  | .csrRdRsvd a => eventWord 0 a 0
  | .csrRdDigest k => eventWord 0 (digestIndex k) 0
  | .csrRdUnmappedLow a => eventWord 0 a 0
  | .csrRdUnmappedHigh a => eventWord 0 a 0
  | .csrWrId v => eventWord 1 0 v
  | .csrWrCtrl v => eventWord 1 1 v
  | .csrWrStatus v => eventWord 1 2 v
  | .csrWrLength v => eventWord 1 3 v
  | .csrWrCount v => eventWord 1 4 v
  | .csrWrCaps v => eventWord 1 5 v
  | .csrWrRsvd a v => eventWord 1 a v
  | .csrWrDigest k v => eventWord 1 (digestIndex k) v
  | .csrWrUnmappedLow a v => eventWord 1 a v
  | .csrWrUnmappedHigh a v => eventWord 1 a v
  | .inXfer b => eventWord 2 0 (b.setWidth 32)
  | .outXfer => eventWord 3 0 0
  | .gen => eventWord 4 0 0
  | .compress => eventWord 5 0 0
  | .finalize => eventWord 6 0 0
  | .reset => eventWord 7 0 0

/-- The position of an event's row in the opcode map of R87, counted from 0. -/
def Instr.row : Instr → Nat
  | .csrRdId => 0
  | .csrRdCtrl => 1
  | .csrRdStatus => 2
  | .csrRdLength => 3
  | .csrRdCount => 4
  | .csrRdCaps => 5
  | .csrRdRsvd _ => 6
  | .csrRdDigest _ => 7
  | .csrRdUnmappedLow _ => 8
  | .csrRdUnmappedHigh _ => 9
  | .csrWrId _ => 10
  | .csrWrCtrl _ => 11
  | .csrWrStatus _ => 12
  | .csrWrLength _ => 13
  | .csrWrCount _ => 14
  | .csrWrCaps _ => 15
  | .csrWrRsvd _ _ => 16
  | .csrWrDigest _ _ => 17
  | .csrWrUnmappedLow _ _ => 18
  | .csrWrUnmappedHigh _ _ => 19
  | .inXfer _ => 20
  | .outXfer => 21
  | .gen => 22
  | .compress => 23
  | .finalize => 24
  | .reset => 25

/-- One row of the opcode map: `w & mask = bits` selects it (R87, columns `mask` and `match`). -/
structure OpcodeRow where
  bits : EventWord
  mask : EventWord
deriving DecidableEq, Repr

/-- The 20 CSR rows of R87, in its order. -/
def csrRows : List OpcodeRow :=
  [⟨0x00000000000, 0x1FFFFFFFFFF⟩, ⟨0x00100000000, 0x1FFFFFFFFFF⟩, ⟨0x00200000000, 0x1FFFFFFFFFF⟩,
   ⟨0x00300000000, 0x1FFFFFFFFFF⟩, ⟨0x00400000000, 0x1FFFFFFFFFF⟩, ⟨0x00500000000, 0x1FFFFFFFFFF⟩,
   ⟨0x00600000000, 0x1FEFFFFFFFF⟩, ⟨0x00800000000, 0x1F8FFFFFFFF⟩, ⟨0x01000000000, 0x1F0FFFFFFFF⟩,
   ⟨0x02000000000, 0x1E0FFFFFFFF⟩] ++
  [⟨0x04000000000, 0x1FF00000000⟩, ⟨0x04100000000, 0x1FF00000000⟩, ⟨0x04200000000, 0x1FF00000000⟩,
   ⟨0x04300000000, 0x1FF00000000⟩, ⟨0x04400000000, 0x1FF00000000⟩, ⟨0x04500000000, 0x1FF00000000⟩,
   ⟨0x04600000000, 0x1FE00000000⟩, ⟨0x04800000000, 0x1F800000000⟩, ⟨0x05000000000, 0x1F000000000⟩,
   ⟨0x06000000000, 0x1E000000000⟩]

/-- The opcode map of R87, all 26 rows in its order. -/
def opcodeTable : List OpcodeRow :=
  csrRows ++
  [⟨0x08000000000, 0x1FFFFFFFF00⟩, ⟨0x0C000000000, 0x1FFFFFFFFFF⟩, ⟨0x10000000000, 0x1FFFFFFFFFF⟩,
   ⟨0x14000000000, 0x1FFFFFFFFFF⟩, ⟨0x18000000000, 0x1FFFFFFFFFF⟩, ⟨0x1C000000000, 0x1FFFFFFFFFF⟩]

/-- `w & mask = match` (R87). -/
def OpcodeRow.selects (r : OpcodeRow) (w : EventWord) : Bool := decide (w &&& r.mask = r.bits)

end Sys2Proof
end

