-- ==== Sys2Proof/Machine/State.lean ====
section
/-! DEFINITION. The state of the block (spec/10_state.md), the reasons a step stops, and the state after reset (R41). -/

namespace Sys2Proof.Machine

/-- `phase` (R21). Codes 5 to 7 are never held, so they have no name here (93 K-4; log 20). -/
inductive Phase where
  | idle
  | preamble
  | length
  | payload
  | digest
deriving DecidableEq, Repr

/-- The mode of an operation (R22, R32): 0 = FRAME, 1 = DIGEST_ONLY. -/
inductive Mode where
  | frame
  | digestOnly
deriving DecidableEq, Repr

/-- The error codes (spec/60_exceptions.md R220). Codes 5 to 15 are never produced (93 K-4; log 20);
INVALID_INPUT is defined and never raised (R223). -/
inductive ErrCode where
  | none
  | invalidInput
  | digestUnavailable
  | busyStart
  | aborted
deriving DecidableEq, Repr

/-- Eight SHA-256 words: a hash value `H[0..7]`, the working variables a..h, or DIGEST0..7 (R27, R28, R38). -/
structure Hash where
  h0 : Word
  h1 : Word
  h2 : Word
  h3 : Word
  h4 : Word
  h5 : Word
  h6 : Word
  h7 : Word
deriving DecidableEq, Repr

/-- The 64-byte block buffer `buf` (R26): (index, byte) cells, indices strictly rising and below 64. An index that
is not listed holds no value, and reading it faults (R41, 93 K-3; log 6). -/
abbrev Buffer := List Host.Cell

/-- Why the machine stops with a fault. No state that meets the invariant of Safety.lean raises one. -/
inductive Fault where
  /-- COMPRESS or FINALIZE read a byte of `buf` that holds no value (R26, R41, 93 K-3: "fault on read"; log 6). Safe. -/
  | bufferUnwritten
  /-- GEN in PREAMBLE with `gpos ≥ 8` or in LENGTH with `gpos ≥ 4`, a state R23 rules out (log 10). Safe. -/
  | gposOutOfRange
deriving DecidableEq, Repr

/-- Why the machine has no meaning for what it was given. -/
inductive Refusal where
  /-- Raised by an arm of exec whose instruction has no meaning yet. Safe. No arm raises it. -/
  | notModelled (mnemonic : String)
  /-- Raised by step: the word spells no event (spec/30_encoding.md R84: "a model refuses it"). Safe. -/
  | illFormedWord (why : Reject)
  /-- Raised by `in`, `out`, `gen`, `compress` and `finalize` in a state in which the action is not enabled
  (spec/00_scope.md R12: "An action whose condition is false has no step."). Safe (log 3). -/
  | notEnabled (i : Instr)
  /-- Raised by a clock cycle with `csr_we` and `csr_re` both 1 (R82, R160, 93 K-6). Safe. -/
  | simultaneousCsr
deriving DecidableEq, Repr

/-- Everything the spec gives the block, the parameter of R8, and the model's own records of what the agents
offer and see. A field's rule is of spec/10_state.md unless another file is named. -/
structure State where
  /-- `SHA_PRESENT` (spec/00_scope.md R8): no event writes it (log 5) -/
  cfg : Config
  /-- R21 -/
  phase : Phase
  /-- R22 -/
  modeq : Mode
  /-- R23 -/
  gpos : BitVec 6
  /-- R24; COUNT reads it (R35) -/
  nin : Word
  /-- R25 -/
  fill : BitVec 7
  /-- R26 -/
  buf : Buffer
  /-- R27; unspecified at reset (R41), where the model names the value 0 (log 7) -/
  h : Hash
  /-- R29 -/
  ov : Bool
  /-- R29 -/
  od : Byte
  /-- R29 -/
  ol : Bool
  /-- CTRL.MODE (R32) -/
  mode : Mode
  /-- CTRL.IRQ_EN (R32) -/
  irqEn : Bool
  /-- STATUS.DONE (R33) -/
  done : Bool
  /-- STATUS.ERR (R33) -/
  err : Bool
  /-- STATUS.ERRCODE (R33) -/
  errcode : ErrCode
  /-- LENGTH (R34) -/
  length : Word
  /-- DIGEST0..7 (R38) -/
  digest : Hash
  /-- MODEL'S OWN: the pending events of the agents, oldest first (spec/20_memory.md R70; log 1) -/
  events : List EventWord
  /-- MODEL'S OWN: the value the last `csr_rd` returned (spec/43_control_registers.md R170; log 8) -/
  rdata : Option Word
  /-- MODEL'S OWN: the message M, the bytes accepted since the last accepted START, in order
  (spec/40_sha256_engine.md R100; log 9) -/
  message : List Byte
  /-- MODEL'S OWN: the (byte, last) pairs `out` delivered since the last accepted START, in order: the frame offset
  space (spec/20_memory.md R60 (c); log 9) -/
  delivered : List (Byte × Bool)
  /-- MODEL'S OWN: which free value `csr_rdata` shows next (93 K-7; log 12) -/
  draws : Nat
deriving DecidableEq, Repr

/-- Eight zero words. -/
def Hash.zero : Hash := ⟨0, 0, 0, 0, 0, 0, 0, 0⟩

/-- The state after RESET (R41, spec/70_reset_and_hazards.md R250) in configuration `c`. `buf` holds no
value (log 6); the value of `H`, which R41 leaves unspecified, is the model's choice (log 7); the last five fields are
the model's own (logs 1, 8, 9, 12). -/
def State.resetFor (c : Config) : State where
  cfg := c
  phase := .idle
  modeq := .frame
  gpos := 0
  nin := 0
  fill := 0
  buf := []
  h := Hash.zero
  ov := false
  od := 0
  ol := false
  mode := .frame
  irqEn := false
  done := false
  err := false
  errcode := .none
  length := 0
  digest := Hash.zero
  events := []
  rdata := none
  message := []
  delivered := []
  draws := 0

/-- The machine right after reset, in the configuration as built (R41, R253). -/
def State.reset : State := State.resetFor Config.asBuilt

end Sys2Proof.Machine
end

