-- ==== Sys2Proof/Machine/Operands.lean ====
section
/-! DEFINITION. Operand fields and byte order: the fields of a CSR write's data (spec/30_encoding.md R83), the byte
sequences BE32, BE64 and WORD_BE (spec/00_scope.md R11), the digest's bytes (spec/20_memory.md R62) and the preamble
(spec/41_frame_serializer.md R141). -/

namespace Sys2Proof.Machine

/-- A bit of a CSR value as a mode: 0 = FRAME, 1 = DIGEST_ONLY (R22, R32). -/
def Mode.ofBit (b : Bool) : Mode := if b then .digestOnly else .frame

/-- CTRL: `data[0]` (R83). -/
def ctrlStart (v : Word) : Bool := v.getLsbD 0
/-- CTRL: `data[1]` (R83). -/
def ctrlMode (v : Word) : Mode := Mode.ofBit (v.getLsbD 1)
/-- CTRL: `data[2]` (R83). -/
def ctrlAbort (v : Word) : Bool := v.getLsbD 2
/-- CTRL: `data[3]` (R83). -/
def ctrlIrqEn (v : Word) : Bool := v.getLsbD 3
/-- STATUS: `data[1]` clears DONE (R83). -/
def statusClearDone (v : Word) : Bool := v.getLsbD 1
/-- STATUS: `data[2]` clears ERR and ERRCODE (R83). -/
def statusClearErr (v : Word) : Bool := v.getLsbD 2

/-- Byte `j` of a word, most significant first: `v[31 − 8j : 24 − 8j]` (R61, R62). -/
def byteOfWord (v : Word) (j : Nat) : Byte := v.extractLsb' (24 - 8 * j) 8

/-- `BE32(v)` (R11). -/
def be32 (v : Word) : List Byte := [byteOfWord v 0, byteOfWord v 1, byteOfWord v 2, byteOfWord v 3]

/-- `BE64(v)`: most significant byte first (R11). -/
def be64 (v : DWord) : List Byte := be32 (v.extractLsb' 32 32) ++ be32 (v.extractLsb' 0 32)

/-- `WORD_BE` of four bytes, the first most significant (R11, R63). -/
def wordBE (b0 b1 b2 b3 : Byte) : Word := b0 ++ b1 ++ b2 ++ b3

/-- `zeros(n)` (R11). -/
def zeros (n : Nat) : List Byte := List.replicate n 0

/-- Word `k` of eight: `DIGESTk`, `H[k]` (R38, R62). -/
def Hash.word (x : Hash) (k : BitVec 3) : Word :=
  if k = 0 then x.h0 else if k = 1 then x.h1 else if k = 2 then x.h2 else if k = 3 then x.h3
  else if k = 4 then x.h4 else if k = 5 then x.h5 else if k = 6 then x.h6 else x.h7

/-- The 32 bytes `BE32(H[0]) ‖ … ‖ BE32(H[7])` (R62). -/
def Hash.bytes (x : Hash) : List Byte :=
  be32 x.h0 ++ be32 x.h1 ++ be32 x.h2 ++ be32 x.h3 ++ be32 x.h4 ++ be32 x.h5 ++ be32 x.h6 ++ be32 x.h7

/-- Digest byte `j`: `DIGEST(j div 4)[31 − 8·(j mod 4) : 24 − 8·(j mod 4)]` (R62). -/
def digestByte (x : Hash) (j : Nat) : Byte := byteOfWord (x.word (BitVec.ofNat 3 (j / 4))) (j % 4)

/-- PREAMBLE, ASCII "mbeddbap" (R141). -/
def preamble : List Byte := [0x6D, 0x62, 0x65, 0x64, 0x64, 0x62, 0x61, 0x70]

/-- `BE64(8 · zext_64(LENGTH))`, the length field of the last padding block (R121). -/
def bitLengthBytes (len : Word) : List Byte := be64 (8 * len.setWidth 64)

end Sys2Proof.Machine
end

