-- ==== Sys2Proof/Machine/Flags.lean ====
section
/-! DEFINITION. The views and flags of the block (spec/10_state.md R21, R33, R39), the enabling condition of each
action (spec/00_scope.md R12 `enabled(A)`), the words a CSR read assembles (spec/43_control_registers.md R174, R175;
log 17), and the interrupt output (spec/60_exceptions.md R230). -/

namespace Sys2Proof.Machine

/-- The 3-bit encoding of `phase` (R21). -/
def Phase.code : Phase → BitVec 3
  | .idle => 0
  | .preamble => 1
  | .length => 2
  | .payload => 3
  | .digest => 4

/-- The bit of a mode (R22). -/
def Mode.bit : Mode → Bool
  | .frame => false
  | .digestOnly => true

/-- The 4-bit code of an error (R220). -/
def ErrCode.code : ErrCode → BitVec 4
  | .none => 0
  | .invalidInput => 1
  | .digestUnavailable => 2
  | .busyStart => 3
  | .aborted => 4

/-- `busy` is `phase ≠ IDLE` (R21). -/
def busy (s : State) : Bool := decide (s.phase ≠ .idle)

/-- `in_ready` (spec/42_stream_ports.md R161): a function of state alone. -/
def inReady (s : State) : Bool :=
  decide (s.phase = .payload) && decide (s.nin < s.length) && decide (s.fill < 64)
    && (decide (s.modeq = .digestOnly) || !s.ov)

/-- OutXfer may fire (spec/42_stream_ports.md R164): a byte is held, and the event is the consumer's acceptance. -/
def outEnabled (s : State) : Bool := s.ov

/-- GEN may fire (spec/41_frame_serializer.md R145). -/
def genEnabled (s : State) : Bool :=
  !s.ov && (decide (s.phase = .preamble) || decide (s.phase = .length)
    || (decide (s.phase = .digest) && decide (s.gpos < 32)))

/-- COMPRESS may fire (spec/40_sha256_engine.md R120). -/
def compressEnabled (s : State) : Bool := decide (s.phase = .payload) && decide (s.fill = 64)

/-- FINALIZE may fire (spec/40_sha256_engine.md R121). -/
def finalizeEnabled (s : State) : Bool :=
  decide (s.phase = .payload) && decide (s.nin = s.length) && decide (s.fill < 64)

/-- `enabled(A)` for every event (R12): CSR accesses and RESET may occur in any state (R170, R250). -/
def enabled : Instr → State → Bool
  | .inXfer _, s => inReady s
  | .outXfer, s => outEnabled s
  | .gen, s => genEnabled s
  | .compress, s => compressEnabled s
  | .finalize, s => finalizeEnabled s
  | _, _ => true

/-- The interrupt output `irq = CTRL.IRQ_EN ∧ (STATUS.DONE ∨ STATUS.ERR)` (R230). -/
def irq (s : State) : Bool := s.irqEn && (s.done || s.err)

/-- One bit at position `n` of a CSR value. -/
def bitAt (b : Bool) (n : Nat) : Word := (BitVec.ofBool b).setWidth 32 <<< n

/-- What `csr_rd ID` returns: "S256" (R31, R173). -/
def idWord : Word := 0x53323536

/-- What `csr_rd CTRL` returns: `(IRQ_EN << 3) | (MODE << 1)` (R174). -/
def ctrlWord (s : State) : Word := bitAt s.irqEn 3 ||| bitAt s.mode.bit 1

/-- What `csr_rd STATUS` returns (R175). -/
def statusWord (s : State) : Word :=
  bitAt (busy s) 0 ||| bitAt s.done 1 ||| bitAt s.err 2
    ||| s.errcode.code.setWidth 32 <<< 4 ||| s.phase.code.setWidth 32 <<< 8
    ||| bitAt s.modeq.bit 11 ||| bitAt s.ov 12 ||| bitAt (inReady s) 13

/-- What `csr_rd CAPS` returns: `SHA_PRESENT ? 1 : 0` (R36, R178). -/
def capsWord (s : State) : Word := if s.cfg.shaPresent then 1 else 0

end Sys2Proof.Machine
end

