-- ==== Sys2Proof/Machine/Sha256.lean ====
section
/-! DEFINITION. SHA-256 as pure functions (spec/40_sha256_engine.md R101 to R103, R110 to R113). Nothing is assumed
of its collision behaviour (93 K-11). -/

namespace Sys2Proof.Machine

/-- `ROTR(x, n)` for `0 < n < 32` (spec/00_scope.md R10). -/
def rotr (x : Word) (n : Nat) : Word := (x >>> n) ||| (x <<< (32 - n))

/-- `SHR(x, n)`, zero-filling (R10). -/
def shr (x : Word) (n : Nat) : Word := x >>> n

/-- The exclusive or of three words, the common shape of Maj, Σ and σ (R101). -/
def xor3 (x y z : Word) : Word := x ^^^ y ^^^ z

/-- The shape of `Σ0` and `Σ1`: three rotations (R101). -/
def bigSigma (r1 r2 r3 : Nat) (x : Word) : Word := xor3 (rotr x r1) (rotr x r2) (rotr x r3)

/-- The shape of `σ0` and `σ1`: two rotations and a shift (R101). -/
def smallSigma (r1 r2 n : Nat) (x : Word) : Word := xor3 (rotr x r1) (rotr x r2) (shr x n)

/-- `Σ0(x)` (R101). -/
def bigSigma0 (x : Word) : Word := bigSigma 2 13 22 x

/-- `Σ1(x)` (R101). -/
def bigSigma1 (x : Word) : Word := bigSigma 6 11 25 x

/-- `σ0(x)` (R101). -/
def smallSigma0 (x : Word) : Word := smallSigma 7 18 3 x

/-- `σ1(x)` (R101). -/
def smallSigma1 (x : Word) : Word := smallSigma 17 19 10 x

/-- `Ch(x, y, z)` (R101). -/
def ch (x y z : Word) : Word := (x &&& y) ^^^ (~~~x &&& z)

/-- `Maj(x, y, z)` (R101). -/
def maj (x y z : Word) : Word := xor3 (x &&& y) (x &&& z) (y &&& z)

/-- The table of R102: row `r`, column `c` holds `K[8r + c]`. -/
def roundConstantRows : List (List Word) :=
  [[0x428a2f98, 0x71374491, 0xb5c0fbcf, 0xe9b5dba5,
    0x3956c25b, 0x59f111f1, 0x923f82a4, 0xab1c5ed5],
   [0xd807aa98, 0x12835b01, 0x243185be, 0x550c7dc3,
    0x72be5d74, 0x80deb1fe, 0x9bdc06a7, 0xc19bf174],
   [0xe49b69c1, 0xefbe4786, 0x0fc19dc6, 0x240ca1cc,
    0x2de92c6f, 0x4a7484aa, 0x5cb0a9dc, 0x76f988da],
   [0x983e5152, 0xa831c66d, 0xb00327c8, 0xbf597fc7,
    0xc6e00bf3, 0xd5a79147, 0x06ca6351, 0x14292967],
   [0x27b70a85, 0x2e1b2138, 0x4d2c6dfc, 0x53380d13,
    0x650a7354, 0x766a0abb, 0x81c2c92e, 0x92722c85],
   [0xa2bfe8a1, 0xa81a664b, 0xc24b8b70, 0xc76c51a3,
    0xd192e819, 0xd6990624, 0xf40e3585, 0x106aa070],
   [0x19a4c116, 0x1e376c08, 0x2748774c, 0x34b0bcb5,
    0x391c0cb3, 0x4ed8aa4a, 0x5b9cca4f, 0x682e6ff3],
   [0x748f82ee, 0x78a5636f, 0x84c87814, 0x8cc70208,
    0x90befffa, 0xa4506ceb, 0xbef9a3f7, 0xc67178f2]]

/-- `K[0..63]`: the table is row-major (R102). -/
def roundConstants : List Word := roundConstantRows.flatten

/-- `IV = H(0)` (R103). -/
def iv : Hash :=
  ⟨0x6a09e667, 0xbb67ae85, 0x3c6ef372, 0xa54ff53a, 0x510e527f, 0x9b05688c, 0x1f83d9ab, 0x5be0cd19⟩

/-- The message words of a block: word `t` is `WORD_BE(B, 4t)` (R111). -/
def blockWords : List Byte → List Word
  | b0 :: b1 :: b2 :: b3 :: rest => wordBE b0 b1 b2 b3 :: blockWords rest
  | _ => []

/-- The next schedule word, from the words so far with the newest first:
`σ1(W[t-2]) + W[t-7] + σ0(W[t-15]) + W[t-16]` (R112). -/
def nextScheduleWord (newestFirst : List Word) : Word :=
  smallSigma1 (newestFirst.getD 1 0) + newestFirst.getD 6 0
    + smallSigma0 (newestFirst.getD 14 0) + newestFirst.getD 15 0

/-- `n` more schedule words (R112), newest first. -/
def extendSchedule : Nat → List Word → List Word
  | 0, ws => ws
  | n + 1, ws => extendSchedule n (nextScheduleWord ws :: ws)

/-- The message schedule `W[0..63]` of a block of 64 bytes (R112). -/
def schedule (block : List Byte) : List Word := (extendSchedule 48 (blockWords block).reverse).reverse

/-- One round: every right-hand side reads the values held at the start of the round (R112). -/
def round (v : Hash) (k w : Word) : Hash :=
  let t1 := v.h7 + bigSigma1 v.h4 + ch v.h4 v.h5 v.h6 + k + w
  let t2 := bigSigma0 v.h0 + maj v.h0 v.h1 v.h2
  { h0 := t1 + t2, h1 := v.h0, h2 := v.h1, h3 := v.h2, h4 := v.h3 + t1, h5 := v.h4, h6 := v.h5, h7 := v.h6 }

/-- The rounds, one for each pair of a round constant and a schedule word, in order (R112). -/
def rounds : List Word → List Word → Hash → Hash
  | k :: ks, w :: ws, v => rounds ks ws (round v k w)
  | _, _, v => v

/-- Word-by-word addition modulo 2^32 (R112, last line). -/
def Hash.add (x y : Hash) : Hash :=
  { h0 := x.h0 + y.h0, h1 := x.h1 + y.h1, h2 := x.h2 + y.h2, h3 := x.h3 + y.h3,
    h4 := x.h4 + y.h4, h5 := x.h5 + y.h5, h6 := x.h6 + y.h6, h7 := x.h7 + y.h7 }

/-- The compression function `compress(Hin, B)` (R112). -/
def compressBlock (hin : Hash) (block : List Byte) : Hash :=
  hin.add (rounds roundConstants (schedule block) hin)

/-- The least `k ≥ 0` with `(n + 1 + k) mod 64 = 56` (R110). -/
def padZeros (n : Nat) : Nat := (119 - n % 64) % 64

/-- `pad(M)` (R110). -/
def pad (m : List Byte) : List Byte :=
  m ++ [0x80] ++ zeros (padZeros m.length) ++ be64 (BitVec.ofNat 64 (8 * m.length))

/-- The first `n` blocks of 64 bytes, in order (R111). -/
def blocksOf : Nat → List Byte → List (List Byte)
  | 0, _ => []
  | n + 1, bs => bs.take 64 :: blocksOf n (bs.drop 64)

/-- `fold compress` over the 64-byte blocks of `bs`, from `h` (R113). -/
def hashBlocks (h : Hash) (bs : List Byte) : Hash := (blocksOf (bs.length / 64) bs).foldl compressBlock h

/-- The final hash value of `M` (R113). -/
def sha256Hash (m : List Byte) : Hash := hashBlocks iv (pad m)

/-- `SHA256(M)`: 32 bytes (R113). -/
def sha256 (m : List Byte) : List Byte := (sha256Hash m).bytes

end Sys2Proof.Machine
end

