-- ==== Sys2Proof/Machine/Ops.lean ====
section
/-! DEFINITION. The named operations the meanings share: the block buffer, a CSR read's result, recording an error
(spec/60_exceptions.md R221) and clearing the records (R234), completion (R227), ABORT and START
(spec/43_control_registers.md R187, R188), the output holding register, and the engine's `H <- compress(H, B)`. -/

namespace Sys2Proof.Machine

/-- The outcome of one step. -/
abbrev Outcome := Host.Outcome State Fault Refusal

/-- Run `f` on the state `o` answers; a stop stays a stop. -/
def andThen (o : Outcome) (f : State → Outcome) : Outcome :=
  match o with
  | .next s => f s
  | .fault r => .fault r
  | .refused r => .refused r

/-! ### The block buffer (spec/10_state.md R26; its canonical form) -/

/-- Indices rise strictly from `lo` on and stay below 64. -/
def Buffer.risingFrom : Nat → Buffer → Bool
  | _, [] => true
  | lo, (a, _) :: rest => decide (lo ≤ a) && decide (a < 64) && Buffer.risingFrom (a + 1) rest

/-- The canonical form: strictly rising indices, all below 64. -/
def Buffer.wf (m : Buffer) : Bool := Buffer.risingFrom 0 m

/-- `buf[i]`; `none` where the buffer holds no value (R41). -/
def Buffer.read : Buffer → Nat → Option Byte
  | [], _ => none
  | (a, b) :: rest, i => if a = i then some b else Buffer.read rest i

/-- `buf[i] <- b` (R12). -/
def Buffer.write : Buffer → Nat → Byte → Buffer
  | [], i, b => [(i, b)]
  | (a, c) :: rest, i, b =>
    if i < a then (i, b) :: (a, c) :: rest
    else if i = a then (i, b) :: rest
    else (a, c) :: Buffer.write rest i b

/-- `buf[i], buf[i+1], … <- bs`. -/
def Buffer.writeBytes : Buffer → Nat → List Byte → Buffer
  | m, _, [] => m
  | m, i, b :: bs => Buffer.writeBytes (Buffer.write m i b) (i + 1) bs

/-- `buf[i .. i+n-1]`; `none` if any of them holds no value. -/
def Buffer.readBytes (m : Buffer) : Nat → Nat → Option (List Byte)
  | _, 0 => some []
  | i, n + 1 =>
    match Buffer.read m i, Buffer.readBytes m (i + 1) n with
    | some b, some bs => some (b :: bs)
    | _, _ => none

/-! ### CSR accesses -/

/-- A CSR read returns `v` and changes no state of the block (R171). -/
def returnValue (v : Word) (s : State) : State := { s with rdata := some v }

/-! ### Errors, completion and the return (spec/60_exceptions.md) -/

/-- `raise Error(code)`: ERR and ERRCODE, and nothing else (R221). The block takes no trap (R233). -/
def raiseError (code : ErrCode) (s : State) : State := { s with err := true, errcode := code }

/-- The W1C clear of DONE (R189, R234). -/
def clearDone (s : State) : State := { s with done := false }

/-- The W1C clear of ERR, which also sets ERRCODE to 0 (R33, R189, R234). -/
def clearErr (s : State) : State := { s with err := false, errcode := .none }

/-- Completion: the operation returns to IDLE and DONE is set (R227). -/
def complete (s : State) : State := { s with phase := .idle, done := true }

/-- ABORT (R187): while busy, back to IDLE, the held byte discarded, ABORTED recorded; while idle, nothing. -/
def abortOp (s : State) : State :=
  if busy s then raiseError .aborted { s with phase := .idle, ov := false, ol := false } else s

/-- An accepted START (R188, last branch). The model's records of the operation begin anew (log 9). -/
def acceptStart (s : State) : State :=
  { s with
    done := false
    err := false
    errcode := .none
    modeq := s.mode
    h := iv
    fill := 0
    nin := 0
    gpos := 0
    phase := if s.mode = .frame then .preamble else .payload
    message := []
    delivered := [] }

/-- START (R188): the busy test comes before the `SHA_PRESENT` test (R231). -/
def startOp (s : State) : State :=
  if busy s then raiseError .busyStart s
  else if s.cfg.shaPresent = false then raiseError .digestUnavailable (clearDone s)
  else acceptStart s

/-! ### The output holding register (spec/10_state.md R29) -/

/-- Hold byte `b` for the output port, with its last flag. -/
def holdByte (b : Byte) (last : Bool) (s : State) : State := { s with od := b, ov := true, ol := last }

/-- Deliver the held byte to the consumer (R164): the pair (od, ol) joins the record, and the register empties. -/
def deliverByte (s : State) : State := { s with delivered := s.delivered ++ [(s.od, s.ol)], ov := false }

/-! ### The engine -/

/-- `H <- compress(H, B)` (R120, R121). -/
def compressInto (block : List Byte) (s : State) : State := { s with h := compressBlock s.h block }

/-- `H <- compress(H, buf[0..63])`; a read of a byte that holds no value faults (R26, R41). -/
def compressBuffer (s : State) : Outcome :=
  match s.buf.readBytes 0 64 with
  | some block => .next (compressInto block s)
  | none => .fault .bufferUnwritten

end Sys2Proof.Machine
end

