-- ==== Sys2Proof/Machine/CsrRead.lean ====
section
/-! DEFINITION. The `csr_rd` family (spec/43_control_registers.md R170, R171, R173 to R181): each read returns its
register's value and changes no state of the block. -/

namespace Sys2Proof.Machine

/-- `csr_rd ID` (R173). -/
def execCsrRdId (s : State) : Outcome := .next (returnValue idWord s)

/-- `csr_rd CTRL` (R174). -/
def execCsrRdCtrl (s : State) : Outcome := .next (returnValue (ctrlWord s) s)

/-- `csr_rd STATUS` (R175). -/
def execCsrRdStatus (s : State) : Outcome := .next (returnValue (statusWord s) s)

/-- `csr_rd LENGTH` (R176). -/
def execCsrRdLength (s : State) : Outcome := .next (returnValue s.length s)

/-- `csr_rd COUNT` reads `nin` (R177). -/
def execCsrRdCount (s : State) : Outcome := .next (returnValue s.nin s)

/-- `csr_rd CAPS` (R178). -/
def execCsrRdCaps (s : State) : Outcome := .next (returnValue (capsWord s) s)

/-- `csr_rd RSVD`: 0 at either index (R179). -/
def execCsrRdRsvd (_a : CsrIndex) (s : State) : Outcome := .next (returnValue 0 s)

/-- `csr_rd DIGESTk` (R180). -/
def execCsrRdDigest (k : BitVec 3) (s : State) : Outcome := .next (returnValue (s.digest.word k) s)

/-- `csr_rd UNMAPPED`, indices 16..31: 0 (R181). -/
def execCsrRdUnmappedLow (_a : CsrIndex) (s : State) : Outcome := .next (returnValue 0 s)

/-- `csr_rd UNMAPPED`, indices 32..63: 0 (R181). -/
def execCsrRdUnmappedHigh (_a : CsrIndex) (s : State) : Outcome := .next (returnValue 0 s)

end Sys2Proof.Machine
end

