-- ==== Sys2Proof/Machine/CsrWrite.lean ====
section
/-! DEFINITION. The `csr_wr` family (spec/43_control_registers.md R170, R172, R182, R183, R186 to R195). -/

namespace Sys2Proof.Machine

/-- `csr_wr ID, v`: ignored (R183). -/
def execCsrWrId (_v : Word) (s : State) : Outcome := .next s

/-- `csr_wr CTRL, v` (R186): MODE and IRQ_EN are written; then ABORT if `v[2]`, otherwise START if `v[0]`. -/
def execCsrWrCtrl (v : Word) (s : State) : Outcome :=
  let s1 : State := { s with mode := ctrlMode v, irqEn := ctrlIrqEn v }
  .next (if ctrlAbort v then abortOp s1 else if ctrlStart v then startOp s1 else s1)

/-- `csr_wr STATUS, v` (R189): write 1 to clear. -/
def execCsrWrStatus (v : Word) (s : State) : Outcome :=
  let s1 := if statusClearDone v then clearDone s else s
  .next (if statusClearErr v then clearErr s1 else s1)

/-- `csr_wr LENGTH, v` (R190): written when not busy, dropped otherwise. -/
def execCsrWrLength (v : Word) (s : State) : Outcome := .next (if busy s then s else { s with length := v })

/-- `csr_wr COUNT, v`: ignored (R191). -/
def execCsrWrCount (_v : Word) (s : State) : Outcome := .next s

/-- `csr_wr CAPS, v`: ignored (R192). -/
def execCsrWrCaps (_v : Word) (s : State) : Outcome := .next s

/-- `csr_wr RSVD, v`: ignored (R193). -/
def execCsrWrRsvd (_a : CsrIndex) (_v : Word) (s : State) : Outcome := .next s

/-- `csr_wr DIGESTk, v`: ignored (R194). -/
def execCsrWrDigest (_k : BitVec 3) (_v : Word) (s : State) : Outcome := .next s

/-- `csr_wr UNMAPPED, v`, indices 16..31: ignored (R195). -/
def execCsrWrUnmappedLow (_a : CsrIndex) (_v : Word) (s : State) : Outcome := .next s

/-- `csr_wr UNMAPPED, v`, indices 32..63: ignored (R195). -/
def execCsrWrUnmappedHigh (_a : CsrIndex) (_v : Word) (s : State) : Outcome := .next s

end Sys2Proof.Machine
end

