-- ==== Sys2Proof/Machine/Engine.lean ====
section
/-! DEFINITION. The SHA-256 engine's actions COMPRESS and FINALIZE (spec/40_sha256_engine.md R120, R121). Each commits
its whole effect at once (R123; log 11). -/

namespace Sys2Proof.Machine

/-- COMPRESS (R120). -/
def execCompress (s : State) : Outcome :=
  if compressEnabled s then andThen (compressBuffer s) fun s1 => .next { s1 with fill := 0 }
  else .refused (.notEnabled .compress)

/-- FINALIZE's padding of the buffer (R121): `0x80` at `f`, then zeros, and the bit length where it fits. -/
def padBuffer (s : State) : State :=
  let f := s.fill.toNat
  if f ≤ 55 then
    { s with buf := s.buf.writeBytes f (0x80 :: zeros (55 - f) ++ bitLengthBytes s.length) }
  else { s with buf := s.buf.writeBytes f (0x80 :: zeros (63 - f)) }

/-- FINALIZE's second compression, of `zeros(56) ‖ L`, when the bit length did not fit (R121, the `else` branch). -/
def lengthBlock (s : State) : State :=
  if s.fill.toNat ≤ 55 then s else compressInto (zeros 56 ++ bitLengthBytes s.length) s

/-- FINALIZE's end (R121): `fill <- 0`, DIGEST0..7 from `H`, then phase DIGEST in FRAME mode and completion in
DIGEST_ONLY mode. -/
def publishDigest (s : State) : State :=
  let s1 : State := { s with fill := 0, digest := s.h }
  if s.modeq = .frame then { s1 with phase := .digest, gpos := 0 } else complete s1

/-- FINALIZE (R121). -/
def execFinalize (s : State) : Outcome :=
  if finalizeEnabled s then
    andThen (compressBuffer (padBuffer s)) fun s1 => .next (publishDigest (lengthBlock s1))
  else .refused (.notEnabled .finalize)

end Sys2Proof.Machine
end

