-- ==== Sys2Proof/Machine/ResetEvent.lean ====
section
/-! DEFINITION. RESET (spec/70_reset_and_hazards.md R250): one event for the whole interval of assertion (R251). -/

namespace Sys2Proof.Machine

/-- RESET (R250): every state element takes its reset value (R41), in any state. The configuration, the agents'
pending events and the free-value counter are no state of the block and stay (log 14). -/
def execReset (s : State) : Outcome :=
  .next { State.resetFor s.cfg with events := s.events, draws := s.draws }

end Sys2Proof.Machine
end

