-- ==== Sys2Proof/Machine/Serializer.lean ====
section
/-! DEFINITION. GEN, the frame serializer's action (spec/41_frame_serializer.md R145). -/

namespace Sys2Proof.Machine

/-- The byte GEN produces (R145, `case phase of`); `none` outside the index range of the phase (R23; log 10) and in
IDLE and PAYLOAD, where GEN is never enabled. -/
def generatedByte (s : State) : Option Byte :=
  match s.phase with
  | .preamble => preamble[s.gpos.toNat]?
  | .length => if s.gpos < 4 then some (byteOfWord s.length s.gpos.toNat) else none
  | .digest => if s.gpos < 32 then some (digestByte s.digest s.gpos.toNat) else none
  | .idle | .payload => none

/-- The sequencer's advance after a generated byte (R145, the last three lines, which test the incremented `gpos`). -/
def advanceGen (s : State) : State :=
  let g := s.gpos + 1
  if s.phase = .preamble ∧ g = 8 then { s with phase := .length, gpos := 0 }
  else if s.phase = .length ∧ g = 4 then { s with phase := .payload, gpos := 0 }
  else { s with gpos := g }

/-- GEN (R145). -/
def execGen (s : State) : Outcome :=
  if genEnabled s then
    match generatedByte s with
    | some b => .next (advanceGen (holdByte b (decide (s.phase = .digest) && decide (s.gpos = 31)) s))
    | none => .fault .gposOutOfRange
  else .refused (.notEnabled .gen)

end Sys2Proof.Machine
end

