-- ==== Sys2Proof/Machine/Stream.lean ====
section
/-! DEFINITION. The stream transfers `in` and `out` (spec/42_stream_ports.md R161 to R164). -/

namespace Sys2Proof.Machine

/-- InXfer(b) (R162): the byte enters the block buffer and, in FRAME mode, the output holding register. The byte's
value is never inspected. -/
def execInXfer (b : Byte) (s : State) : Outcome :=
  if inReady s then
    let s1 : State :=
      { s with
        buf := s.buf.write s.fill.toNat b
        fill := s.fill + 1
        nin := s.nin + 1
        message := s.message ++ [b] }
    .next (if s.modeq = .frame then holdByte b false s1 else s1)
  else .refused (.notEnabled (.inXfer b))

/-- OutXfer (R164): the held byte is delivered; the frame's last byte completes the operation. -/
def execOutXfer (s : State) : Outcome :=
  if outEnabled s then
    .next (if s.ol then complete { deliverByte s with ol := false } else deliverByte s)
  else .refused (.notEnabled .outXfer)

end Sys2Proof.Machine
end

