-- ==== Sys2Proof/Machine/Dispatch.lean ====
section
/-! DEFINITION. One arm per event: its meaning. -/

namespace Sys2Proof.Machine

def exec (i : Instr) (s : State) : Host.Outcome State Fault Refusal :=
  match i with
  | .csrRdId => Sys2Proof.Machine.execCsrRdId s
  | .csrRdCtrl => Sys2Proof.Machine.execCsrRdCtrl s
  | .csrRdStatus => Sys2Proof.Machine.execCsrRdStatus s
  | .csrRdLength => Sys2Proof.Machine.execCsrRdLength s
  | .csrRdCount => Sys2Proof.Machine.execCsrRdCount s
  | .csrRdCaps => Sys2Proof.Machine.execCsrRdCaps s
  | .csrRdRsvd a => Sys2Proof.Machine.execCsrRdRsvd a s
  | .csrRdDigest k => Sys2Proof.Machine.execCsrRdDigest k s
  | .csrRdUnmappedLow a => Sys2Proof.Machine.execCsrRdUnmappedLow a s
  | .csrRdUnmappedHigh a => Sys2Proof.Machine.execCsrRdUnmappedHigh a s
  | .csrWrId v => Sys2Proof.Machine.execCsrWrId v s
  | .csrWrCtrl v => Sys2Proof.Machine.execCsrWrCtrl v s
  | .csrWrStatus v => Sys2Proof.Machine.execCsrWrStatus v s
  | .csrWrLength v => Sys2Proof.Machine.execCsrWrLength v s
  | .csrWrCount v => Sys2Proof.Machine.execCsrWrCount v s
  | .csrWrCaps v => Sys2Proof.Machine.execCsrWrCaps v s
  | .csrWrRsvd a v => Sys2Proof.Machine.execCsrWrRsvd a v s
  | .csrWrDigest k v => Sys2Proof.Machine.execCsrWrDigest k v s
  | .csrWrUnmappedLow a v => Sys2Proof.Machine.execCsrWrUnmappedLow a v s
  | .csrWrUnmappedHigh a v => Sys2Proof.Machine.execCsrWrUnmappedHigh a v s
  | .inXfer b => Sys2Proof.Machine.execInXfer b s
  | .outXfer => Sys2Proof.Machine.execOutXfer s
  | .gen => Sys2Proof.Machine.execGen s
  | .compress => Sys2Proof.Machine.execCompress s
  | .finalize => Sys2Proof.Machine.execFinalize s
  | .reset => Sys2Proof.Machine.execReset s

end Sys2Proof.Machine
end

