-- ==== Sys2Proof/Machine/Agents.lean ====
section
/-! DEFINITION. Who acts next (spec/10_state.md R20): the oldest pending event, or the engine on its own. -/

namespace Sys2Proof.Machine

/-- The agents (R20; spec/30_encoding.md R81, column "agent"). -/
inductive Agent where
  | host
  | producer
  | consumer
  | engine
  | environment
deriving DecidableEq, Repr

/-- Whether an event is a CSR read (R81, kind 0). -/
def isCsrRead : Instr → Bool
  | .csrRdId | .csrRdCtrl | .csrRdStatus | .csrRdLength | .csrRdCount | .csrRdCaps => true
  | .csrRdRsvd _ | .csrRdDigest _ | .csrRdUnmappedLow _ | .csrRdUnmappedHigh _ => true
  | .csrWrId _ | .csrWrCtrl _ | .csrWrStatus _ | .csrWrLength _ | .csrWrCount _ | .csrWrCaps _ => false
  | .csrWrRsvd _ _ | .csrWrDigest _ _ | .csrWrUnmappedLow _ _ | .csrWrUnmappedHigh _ _ => false
  | .inXfer _ | .outXfer | .gen | .compress | .finalize | .reset => false

/-- The agent whose action an event is (R81). -/
def agentOf : Instr → Agent
  | .csrRdId | .csrRdCtrl | .csrRdStatus | .csrRdLength | .csrRdCount | .csrRdCaps => .host
  | .csrRdRsvd _ | .csrRdDigest _ | .csrRdUnmappedLow _ | .csrRdUnmappedHigh _ => .host
  | .csrWrId _ | .csrWrCtrl _ | .csrWrStatus _ | .csrWrLength _ | .csrWrCount _ | .csrWrCaps _ => .host
  | .csrWrRsvd _ _ | .csrWrDigest _ _ | .csrWrUnmappedLow _ _ | .csrWrUnmappedHigh _ _ => .host
  | .inXfer _ => .producer
  | .outXfer => .consumer
  | .gen | .compress | .finalize => .engine
  | .reset => .environment

/-- The engine actions (spec/00_scope.md R15). -/
inductive EngineAction where
  | gen
  | compress
  | finalize
deriving DecidableEq, Repr

/-- The event of an engine action (spec/30_encoding.md R81). -/
def EngineAction.event : EngineAction → Instr
  | .gen => .gen
  | .compress => .compress
  | .finalize => .finalize

/-- The engine action that is enabled, if any. At most one is (spec/20_memory.md R72). -/
def engineChoice (s : State) : Option EngineAction :=
  if genEnabled s then some .gen
  else if compressEnabled s then some .compress
  else if finalizeEnabled s then some .finalize
  else none

/-- What the agents do when no event is pending: the engine performs its enabled action (R15: "The block performs
them on its own when they are enabled"), and with none enabled nothing happens (log 2). -/
def engineStep (s : State) : Outcome :=
  match engineChoice s with
  | some a => exec a.event s
  | none => .next s

/-- Run the event word `w`; a word that spells no event is refused (spec/30_encoding.md R84). -/
def runWord (w : EventWord) (s : State) : Outcome :=
  match decode w with
  | .ok i => exec i s
  | .error why => .refused (.illFormedWord why)

/-- Take the oldest pending event off the queue. -/
def nextEvent (s : State) : Option (EventWord × State) :=
  match s.events with
  | [] => none
  | w :: rest => some (w, { s with events := rest })

/-- The event word of the number `w`. A number of more than 41 bits is no event word, and is given the all-ones word,
which spells no event (log 4). -/
def eventWordOf (w : Nat) : EventWord := if w < 2 ^ 41 then BitVec.ofNat 41 w else BitVec.allOnes 41

end Sys2Proof.Machine
end

