-- ==== Sys2Proof/Machine/Step.lean ====
section
/-! DEFINITION. One step: one atomic action of the total order (spec/20_memory.md R70). -/

namespace Sys2Proof.Machine

/-- One step: the oldest pending event, or the engine's own action when none is pending (R70, R20; logs 1, 2). -/
def step (s : State) : Host.Outcome State Fault Refusal :=
  match nextEvent s with
  | some (w, s1) => runWord w s1
  | none => engineStep s

/-- `s` with the event word `w` (its bits above `nbits` zero) as the next pending event: an agent offers it (log 1). -/
def State.withFetchWord (s : State) (nbits w : Nat) : State :=
  { s with events := eventWordOf (w % 2 ^ nbits) :: s.events }

end Sys2Proof.Machine
end

