-- ==== Sys2Proof/Machine/Cycle.lean ====
section
/-! DEFINITION. One clock cycle at the ports (spec/42_stream_ports.md R160): the serial application of the actions
that occur in it, in the order of spec/20_memory.md R72, over the same meanings; and the output ports
(spec/42_stream_ports.md R163, spec/70_reset_and_hazards.md R251). -/

namespace Sys2Proof.Machine

/-- The input ports in one cycle (R160), and the engine action whose work the RTL completes in it, if any
(R72 step 4; which one is left open, 93 K-22; log 13). -/
structure CycleIn where
  rstN : Bool
  csrAddr : CsrIndex
  csrWe : Bool
  csrRe : Bool
  csrWdata : Word
  inValid : Bool
  inData : Byte
  outReady : Bool
  commit : Option EngineAction
deriving DecidableEq, Repr

/-- The output ports in one cycle (R160). -/
structure CycleOut where
  csrRdata : Word
  inReady : Bool
  outValid : Bool
  outData : Byte
  outLast : Bool
  irq : Bool
deriving DecidableEq, Repr

/-- A cycle in which no agent acts. -/
def CycleIn.quiet : CycleIn where
  rstN := true
  csrAddr := 0
  csrWe := false
  csrRe := false
  csrWdata := 0
  inValid := false
  inData := 0
  outReady := false
  commit := none

/-- Run an event if it occurs in this cycle. -/
def occurs (c : Bool) (i : Instr) (s : State) : Outcome := if c then exec i s else .next s

/-- The engine's commit of this cycle (R72 step 4). -/
def commitAction (a : Option EngineAction) (s : State) : Outcome :=
  match a with
  | some e => exec e.event s
  | none => .next s

/-- A commit is one of an action enabled at the start of the cycle (R72: OUT shares a cycle with COMPRESS or FINALIZE
only; R272: "GEN or InXfer and OutXfer cannot share a cycle"; log 13). -/
def commitLegal (a : Option EngineAction) (s : State) : Outcome :=
  match a with
  | some e => if enabled e.event s then .next s else .refused (.notEnabled e.event)
  | none => .next s

/-- The actions of a cycle with `rst_n = 1`, in R72's order; the stream handshakes are those of the start-of-cycle
state `s` (R160). -/
def cycleActions (p : CycleIn) (s : State) : Outcome :=
  andThen (occurs p.csrRe (readEvent p.csrAddr) s) fun s1 =>
  andThen (occurs (outEnabled s && p.outReady) .outXfer s1) fun s2 =>
  andThen (occurs (inReady s && p.inValid) (.inXfer p.inData) s2) fun s3 =>
  andThen (commitAction p.commit s3) fun s4 =>
  occurs p.csrWe (writeEvent p.csrAddr p.csrWdata) s4

/-- The events that occur in a cycle, in R72's order; in reset, RESET alone (R251). The stream handshakes are those of
the start-of-cycle state `s` (R160). -/
def cycleEvents (p : CycleIn) (s : State) : List Instr :=
  if p.rstN = false then [.reset]
  else
    (if p.csrRe then [readEvent p.csrAddr] else [])
      ++ (if s.ov && p.outReady then [.outXfer] else [])
      ++ (if inReady s && p.inValid then [.inXfer p.inData] else [])
      ++ (p.commit.map EngineAction.event).toList
      ++ (if p.csrWe then [writeEvent p.csrAddr p.csrWdata] else [])

/-- One clock cycle. While `rst_n = 0` the block is in reset and nothing else takes effect (R251). A cycle with both
CSR strobes is refused (R160, 93 K-6). The free value `csr_rdata` may show is used up (log 12). -/
def cycle (p : CycleIn) (s : State) : Outcome :=
  andThen
    (if p.rstN = false then exec .reset s
     else if p.csrWe && p.csrRe then .refused .simultaneousCsr
     else andThen (commitLegal p.commit s) (cycleActions p))
    fun t => .next { t with draws := t.draws + 1 }

/-- `csr_rdata` (R160): the register's value in a cycle that reads, from the start-of-cycle state; otherwise, and in
reset, any value (R251, 93 K-7; log 12). -/
def csrRdataPort (p : CycleIn) (s : State) : Word :=
  if p.rstN && p.csrRe then
    match exec (readEvent p.csrAddr) s with
    | .next t => t.rdata.getD 0
    | _ => Config.freeRdata s.draws
  else Config.freeRdata s.draws

/-- `out_data` (R160): the held byte `od` out of reset (R163). R251 does not say what it shows in reset, where
`out_valid = 0` and K-8 lets it be any value: the model shows a free value there (log 24). -/
def outDataPort (p : CycleIn) (s : State) : Byte := if p.rstN then s.od else Config.freeOutData s.draws

/-- The output ports in a cycle that starts in state `s` (R160, R161, R163, R230); in reset `in_ready`, `out_valid`,
`out_last` and `irq` are 0 (R251), and `csr_rdata` and `out_data` are free values (logs 12, 24). -/
def outputs (p : CycleIn) (s : State) : CycleOut where
  csrRdata := csrRdataPort p s
  inReady := p.rstN && inReady s
  outValid := p.rstN && s.ov
  outData := outDataPort p s
  outLast := p.rstN && s.ol
  irq := p.rstN && irq s

/-- The outcome after the first `n` cycles of an infinite sequence of cycle inputs. -/
def runCycles (ps : Nat → CycleIn) : Nat → State → Outcome
  | 0, s => .next s
  | n + 1, s => andThen (runCycles ps n s) (cycle (ps n))

end Sys2Proof.Machine
end

