-- ==== Sys2Proof/Machine/Frame.lean ====
section
/-! DEFINITION. The frame as pure functions (spec/41_frame_serializer.md R140 to R144) and the receiver's view of it
(R149, informative: the receiver is no part of the block). -/

namespace Sys2Proof.Machine

/-- The length field of a payload: `BE32(n)` (R142). -/
def lengthField (p : List Byte) : List Byte := be32 (BitVec.ofNat 32 p.length)

/-- `Frame(P) = PREAMBLE ‖ BE32(n) ‖ P ‖ SHA256(P)` (R140). -/
def frame (p : List Byte) : List Byte := preamble ++ lengthField p ++ p ++ sha256 p

/-- The frame byte at offset `i` (R143); no byte exists from offset `44 + n` on. -/
def frameByte (p : List Byte) (i : Nat) : Option Byte :=
  if i ≤ 7 then preamble[i]?
  else if i ≤ 11 then some (byteOfWord (BitVec.ofNat 32 p.length) (i - 8))
  else if i ≤ 11 + p.length then p[i - 12]?
  else if i ≤ 43 + p.length then (sha256 p)[i - 12 - p.length]?
  else none

/-- The pairs (byte, last) the output port delivers for a byte sequence: `last` on its final byte only (R147, R164). -/
def withLast : List Byte → List (Byte × Bool)
  | [] => []
  | [b] => [(b, true)]
  | b :: c :: rest => (b, false) :: withLast (c :: rest)

/-- The receiver of R149: it finds the preamble, reads the length `n` from bytes 8..11, then `n` payload bytes and 32
digest bytes, and compares them with the payload's digest. THE MODEL'S CHOICE (log 23): it looks for the preamble at
offset 0 alone and answers none where it is not there, where the frame is cut short or where the digest differs. R149
is informative, and 91_not_in_source.md 41-2 and 93 K-18 leave open where a receiver looks and what it does then. -/
def receive (bytes : List Byte) : Option (List Byte) :=
  match bytes.drop 8 with
  | b0 :: b1 :: b2 :: b3 :: rest =>
    let n := (wordBE b0 b1 b2 b3).toNat
    if bytes.take 8 = preamble ∧ n ≤ rest.length ∧ (rest.drop n).take 32 = sha256 (rest.take n)
    then some (rest.take n) else none
  | _ => none

end Sys2Proof.Machine
end

