-- ==== Sys2Proof/Machine/Pseudo.lean ====
section
/-! DEFINITION. The pseudo-instructions of event traces and their expansions (spec/30_encoding.md R89), and the
software sequences of spec/70_reset_and_hazards.md R256 and R257. -/

namespace Sys2Proof.Machine

/-- The pseudo-instructions (R89). `waitIdle` is a loop, not a list of events; see `waitIdle` below. -/
inductive Pseudo where
  | setLength (n : Word)
  | startFrame
  | startFrameIrq
  | startDigest
  | startDigestIrq
  | abort
  | clearStatus
  | send (bytes : List Byte)
deriving DecidableEq, Repr

/-- The expansion (R89). -/
def Pseudo.expand : Pseudo → List Instr
  | .setLength n => [.csrWrLength n]
  | .startFrame => [.csrWrCtrl 0x1]
  | .startFrameIrq => [.csrWrCtrl 0x9]
  | .startDigest => [.csrWrCtrl 0x3]
  | .startDigestIrq => [.csrWrCtrl 0xB]
  | .abort => [.csrWrCtrl 0x4]
  | .clearStatus => [.csrWrStatus 0x6]
  | .send bytes => bytes.map .inXfer

/-- Run a list of events in order. -/
def execAll : List Instr → State → Outcome
  | [], s => .next s
  | i :: rest, s => andThen (exec i s) (execAll rest)

/-- `wait_idle`: repeat `csr_rd STATUS` until bit 0 of the result is 0 (R89). Between two reads the other agents act:
`others` lists their events, one list for each further read; `none` when it runs out before the block is idle
(the loop ends only if the operation ends, R271; log 19). -/
def waitIdle : List (List Instr) → State → Option Outcome
  | [], s =>
    match exec .csrRdStatus s with
    | .next t => if (t.rdata.getD 0).getLsbD 0 then none else some (.next t)
    | o => some o
  | others :: rest, s =>
    match exec .csrRdStatus s with
    | .next t =>
      if (t.rdata.getD 0).getLsbD 0 then
        match execAll others t with
        | .next u => waitIdle rest u
        | o => some o
      else some (.next t)
    | o => some o

/-- The host's events that start a FRAME operation on `n` bytes: steps 2 and 3 of R256, in that order (R264). -/
def startFrameOperation (n : Word) (irqWanted : Bool) : List Instr :=
  (Pseudo.setLength n).expand ++ (if irqWanted then Pseudo.startFrameIrq else Pseudo.startFrame).expand

/-- The host's events that start a DIGEST_ONLY operation on `n` bytes (R257). -/
def startDigestOperation (n : Word) (irqWanted : Bool) : List Instr :=
  (Pseudo.setLength n).expand ++ (if irqWanted then Pseudo.startDigestIrq else Pseudo.startDigest).expand

end Sys2Proof.Machine
end

