-- ==== Sys2Proof/Safety.lean ====
section
/-! DEFINITION. What a run of the block is and what is safe of it, in the terms the statements use: reachable states,
the spec's invariants (spec/10_state.md R40) and the model's stronger inductive one, what an operation has produced
(spec/41_frame_serializer.md R147), the work left, and weak fairness of the engine (spec/70_reset_and_hazards.md R270). -/

namespace Sys2Proof.Machine

/-- The states the agents can bring the block to from reset, in either configuration, by any interleaving of enabled
actions (R20, R70, R253). What is pending for the agents, and the free-value counter, may be anything. -/
inductive Reachable : State → Prop where
  | reset (c : Config) : Reachable (State.resetFor c)
  | act {s t : State} (i : Instr) : Reachable s → exec i s = .next t → Reachable t
  | environment {s : State} (es : List EventWord) (n : Nat) :
      Reachable s → Reachable { s with events := es, draws := n }

/-- The invariants (I1) to (I7) of spec/10_state.md R40. -/
structure SpecInvariants (s : State) : Prop where
  i1_range : s.fill ≤ 64
  i1_full : s.fill = 64 → s.phase = .payload ∨ s.phase = .idle
  i2 : s.phase = .idle → s.ov = false ∧ s.ol = false
  i3 : s.ol = true → s.ov = true ∧ s.phase = .digest ∧ s.gpos = 32
  i4_count : busy s = true → s.nin ≤ s.length
  i4_blocks : s.phase = .payload → s.nin.toNat % 64 = s.fill.toNat % 64
  i5 : busy s = true → s.done = false
  i6 : s.modeq = .digestOnly → busy s = true → s.phase = .payload ∧ s.ov = false
  i7 : s.cfg.shaPresent = false → s.phase = .idle

/-- The model's inductive invariant: R40, the ranges of `gpos` (R23) and what `nin` and `fill` are in each phase, the
error record (R222, R223), and that `buf` holds values wherever an action may read it (R26). -/
structure Inv (s : State) : Prop extends SpecInvariants s where
  errRecord : s.err = false → s.errcode = .none
  neverInvalidInput : s.errcode ≠ .invalidInput
  gposPreamble : s.phase = .preamble → s.gpos < 8
  gposLength : s.phase = .length → s.gpos < 4
  gposDigest : s.phase = .digest → s.gpos ≤ 32
  lastHeld : s.phase = .digest → s.gpos = 32 → s.ov = true ∧ s.ol = true
  fillOutside : s.phase = .preamble ∨ s.phase = .length ∨ s.phase = .digest → s.fill = 0
  countBefore : s.phase = .preamble ∨ s.phase = .length → s.nin = 0
  countAfter : s.phase = .digest → s.nin = s.length
  fillLeCount : s.phase = .payload → s.fill.toNat ≤ s.nin.toNat
  bufCanonical : s.buf.wf = true
  bufWritten : ∀ i < s.fill.toNat, (s.buf.read i).isSome = true

/-- The frame bytes that have left GEN and the input port: those delivered, then the held one. -/
def produced (s : State) : List Byte := s.delivered.map Prod.fst ++ (if s.ov then [s.od] else [])

/-- The frame bytes a FRAME operation has produced by phase, `gpos` and the message so far (R143, R145, R162). -/
def expectedBytes (s : State) : List Byte :=
  match s.phase with
  | .idle => []
  | .preamble => preamble.take s.gpos.toNat
  | .length => preamble ++ (be32 s.length).take s.gpos.toNat
  | .payload => preamble ++ be32 s.length ++ s.message
  | .digest => preamble ++ be32 s.length ++ s.message ++ s.digest.bytes.take s.gpos.toNat

/-- Before FINALIZE: PREAMBLE, LENGTH or PAYLOAD. -/
def beforeDigest (s : State) : Prop := s.phase = .preamble ∨ s.phase = .length ∨ s.phase = .payload

/-- What the engine and the serializer have computed is what SHA-256 and the frame format say of the message so far
(R71, R122, R147, R148), and a completed operation's record (R227) stands for its whole result. -/
structure Functional (s : State) : Prop where
  counted : busy s = true → s.message.length = s.nin.toNat
  hashed : beforeDigest s → s.h = hashBlocks iv (s.message.take (s.nin.toNat - s.fill.toNat))
  buffered : beforeDigest s →
    s.buf.readBytes 0 s.fill.toNat = some (s.message.drop (s.nin.toNat - s.fill.toNat))
  digested : s.phase = .digest → s.digest = sha256Hash s.message
  framed : s.modeq = .frame → busy s = true → produced s = expectedBytes s
  noLastYet : busy s = true → ∀ p ∈ s.delivered, p.2 = false
  silent : s.modeq = .digestOnly → s.delivered = []
  doneFrame : s.done = true → s.modeq = .frame → s.delivered = withLast (frame s.message)
  doneDigest : s.done = true → s.digest = sha256Hash s.message

/-- The generated bytes a FRAME operation has yet to produce (R145). -/
def generatedLeft (s : State) : Nat :=
  match s.phase with
  | .idle => 0
  | .preamble => (8 - s.gpos.toNat) + 36
  | .length => (4 - s.gpos.toNat) + 32
  | .payload => 32
  | .digest => 32 - s.gpos.toNat

/-- A bound on the stream transfers and engine actions the running operation has yet to take (R271). -/
def workLeft (s : State) : Nat :=
  if s.phase = .idle then 0
  else 2 * generatedLeft s + (if s.ov then 1 else 0) + 3 * (s.length.toNat - s.nin.toNat) + s.fill.toNat
    + (if s.phase = .digest then 0 else 1)

/-- A stream transfer or an engine action: what carries a running operation on (R15, R271). -/
def carriesOn (i : Instr) : Prop := agentOf i = .producer ∨ agentOf i = .consumer ∨ agentOf i = .engine

/-- The cycle bound of an engine action (R270, D19). -/
def EngineAction.bound : EngineAction → Nat
  | .gen => Config.tGen
  | .compress => Config.tCompress
  | .finalize => Config.tFinalize

/-- Weak fairness of the engine over an infinite run of cycles (R270): an engine action that is enabled after `n`
cycles commits within its bound or is disabled before that. Every cycle of the run is one the block takes. -/
structure FairRun (ps : Nat → CycleIn) (s : State) : Prop where
  runs : ∀ n, ∃ t, runCycles ps n s = .next t
  fair : ∀ n t a, runCycles ps n s = .next t → enabled a.event t = true →
    ∃ k < a.bound, ∃ u, runCycles ps (n + k) s = .next u ∧
      ((ps (n + k)).commit = some a ∨ enabled a.event u = false)

/-- The events of a trace as pending words, in order. -/
def pending (is : List Instr) : List EventWord := is.map encode

/-- `n` steps of the machine, stopping at the first stop. -/
def run : Nat → State → Outcome
  | 0, s => .next s
  | n + 1, s => andThen (step s) (run n)

end Sys2Proof.Machine
end

