-- ==== Sys2Proof/Certificates/Slice0/Obligations.lean ====
section
/-! DEFINITION. The statements for the provers. Each docstring names the rule of spec/ it comes from. -/

open Sys2Proof Sys2Proof.Machine

/-! ### The event word (spec/30_encoding.md) -/

/-- R80, R81, R87: no operand of any event is dropped by its word. -/
def Obligations.DecodeOfEncodeIsTheEvent : Prop :=
  ∀ i : Instr, i.wf = true → decode (encode i) = .ok i

/-- R80, R87: each valid word has one meaning, and its event is well formed. -/
def Obligations.EncodeOfDecodedEventIsTheWord : Prop :=
  ∀ (w : EventWord) (i : Instr), decode w = .ok i → encode i = w ∧ i.wf = true

/-- R84: exactly the words with a nonzero must-be-zero field spell no event; the machine refuses such a word; and the
opcode map covers every other word exactly once, and none of these. -/
def Obligations.IllFormedWordsAreTheNonzeroMustBeZeroOnes : Prop :=
  ∀ w : EventWord,
    let illFormed : Prop :=
      (kindOf w = 0 ∧ dataOf w ≠ 0) ∨
      (kindOf w = 2 ∧ (addrOf w ≠ 0 ∨ (dataOf w).extractLsb' 8 24 ≠ 0)) ∨
      (3 ≤ kindOf w ∧ (addrOf w ≠ 0 ∨ dataOf w ≠ 0))
    (illFormed ↔ ∃ why, decode w = .error why) ∧
    (illFormed → ∀ s : State, ∃ why, runWord w s = .refused (.illFormedWord why)) ∧
    (illFormed → ∀ r ∈ opcodeTable, r.selects w = false) ∧
    (¬ illFormed → (opcodeTable.filter fun r => r.selects w).length = 1)

/-- R87: a row of the opcode map selects a word exactly when the decoder reads that row's event from it. -/
def Obligations.OpcodeMapRowSelectsItsDecodedEvent : Prop :=
  ∀ (w : EventWord) (n : Nat) (r : OpcodeRow), opcodeTable[n]? = some r →
    (r.selects w = true ↔ ∃ i, decode w = .ok i ∧ i.row = n)

/-- R87 and the words of spec/95_test_vectors.md (V50, V51, P1 to P7): a few words decode to what they stand for. -/
def Obligations.SpecWordsDecodeToTheirEvents : Prop :=
  decode 0x00200000000 = .ok .csrRdStatus ∧ decode 0x00B00000000 = .ok (.csrRdDigest 3) ∧
  decode 0x03F00000000 = .ok (.csrRdUnmappedHigh 63) ∧ decode 0x0410000000B = .ok (.csrWrCtrl 0xB) ∧
  decode 0x043FFFFFFFF = .ok (.csrWrLength 0xFFFFFFFF) ∧ decode 0x08000000061 = .ok (.inXfer 0x61) ∧
  decode 0x0C000000000 = .ok .outXfer ∧ decode 0x10000000000 = .ok .gen ∧
  decode 0x14000000000 = .ok .compress ∧ decode 0x18000000000 = .ok .finalize ∧
  decode 0x1C000000000 = .ok .reset

/-- R89: the pseudo-instructions expand to the words the spec's programs use for them. -/
def Obligations.PseudoInstructionsExpandToTheSpecsWords : Prop :=
  (∀ n : Word, pending (Pseudo.setLength n).expand = [eventWord 1 3 n]) ∧
  pending Pseudo.startFrame.expand = [0x04100000001] ∧ pending Pseudo.startFrameIrq.expand = [0x04100000009] ∧
  pending Pseudo.startDigest.expand = [0x04100000003] ∧ pending Pseudo.startDigestIrq.expand = [0x0410000000B] ∧
  pending Pseudo.abort.expand = [0x04100000004] ∧ pending Pseudo.clearStatus.expand = [0x04200000006] ∧
  (∀ bs : List Byte, pending (Pseudo.send bs).expand = bs.map fun b => eventWord 2 0 (b.setWidth 32))

/-! ### One step, and which events have a step -/

/-- R70, R84, log 1: with an event pending, a step is exec of the decoded event at the state with it taken off the
queue, and a pending word that spells no event is refused by the decoder's reason. -/
def Obligations.StepRunsTheOldestPendingEvent : Prop :=
  ∀ (s : State) (w : EventWord) (rest : List EventWord), s.events = w :: rest →
    (∀ i : Instr, decode w = .ok i → step s = exec i { s with events := rest }) ∧
    (∀ why : Reject, decode w = .error why → step s = .refused (.illFormedWord why))

/-- R15, R20 and log 2 (the model's choice of who acts when nothing is pending): the engine performs its enabled
action, whichever it is, and otherwise nothing happens. So no two engine actions are enabled in one state (R72). -/
def Obligations.StepWithNothingPendingIsTheEngines : Prop :=
  ∀ s : State, s.events = [] →
    (∀ a : EngineAction, enabled a.event s = true → step s = exec a.event s) ∧
    ((∀ a : EngineAction, enabled a.event s = false) → step s = .next s)

/-- R12: every event answers a next state exactly when it is enabled, in every state that meets the invariant. -/
def Obligations.EveryEnabledEventCompletes : Prop :=
  ∀ (i : Instr) (s : State), Inv s → enabled i s = true → ∃ t, exec i s = .next t

/-- R12: "An action whose condition is false has no step." That the model refuses it by name is log 3. -/
def Obligations.DisabledEventsHaveNoStep : Prop :=
  ∀ (i : Instr) (s : State), enabled i s = false → exec i s = .refused (.notEnabled i)

/-- R8, R20, logs 1, 5, 12: no event writes the configuration, the agents' pending events or the free-value counter. -/
def Obligations.NoEventWritesTheConfigurationOrTheQueue : Prop :=
  ∀ (i : Instr) (s t : State), exec i s = .next t → t.cfg = s.cfg ∧ t.events = s.events ∧ t.draws = s.draws

/-! ### Reset (spec/10_state.md R41, spec/70_reset_and_hazards.md R250) -/

/-- R41, R250: RESET occurs in any state and leaves every state element at the reset value R41 gives it. `buf` holds no
value (log 6). R41 leaves `H` unspecified: the value the model names is its own choice (log 7), and none is stated. -/
def Obligations.ResetLeavesEveryResetValue : Prop :=
  ∀ s : State, ∃ t, exec .reset s = .next t ∧
    t.phase = .idle ∧ t.modeq = .frame ∧ t.gpos = 0 ∧ t.nin = 0 ∧ t.fill = 0 ∧
    t.ov = false ∧ t.od = 0x00 ∧ t.ol = false ∧ t.mode = .frame ∧ t.irqEn = false ∧
    t.done = false ∧ t.err = false ∧ t.errcode = .none ∧ t.length = 0 ∧ t.digest = ⟨0, 0, 0, 0, 0, 0, 0, 0⟩ ∧
    (∀ i, t.buf.read i = none) ∧
    statusWord t = 0 ∧ t.nin = 0 ∧ capsWord t = (if s.cfg.shaPresent then 1 else 0) ∧ idWord = 0x53323536 ∧
    irq t = false ∧ inReady t = false ∧
    (∀ i, carriesOn i → enabled i t = false)

/-! ### Invariants -/

/-- The state after reset meets the invariants, in either configuration. -/
def Obligations.InvariantHoldsAtReset : Prop :=
  ∀ c : Config, Inv (State.resetFor c) ∧ Functional (State.resetFor c)

/-- The invariant (R40 and what makes it inductive) is kept by every step. -/
def Obligations.EveryStepKeepsTheInvariant : Prop :=
  ∀ s t : State, Inv s → step s = .next t → Inv t

/-- R40: the invariants (I1) to (I7) hold in every state reachable from reset. "After an ABORT" of (I1) is about the
event that leads there: nothing but an ABORT in PAYLOAD brings the block to IDLE with `fill = 64`. -/
def Obligations.ReachableStatesMeetTheSpecsInvariants : Prop :=
  ∀ s : State, Reachable s → SpecInvariants s ∧
    ∀ (i : Instr) (t : State), exec i s = .next t → t.phase = .idle → t.fill = 64 →
      (s.phase = .idle ∧ s.fill = 64) ∨ (s.phase = .payload ∧ ∃ v, i = .csrWrCtrl v ∧ ctrlAbort v = true)

/-- R222, R223, V60: whenever ERR = 0, ERRCODE = 0, and INVALID_INPUT is never recorded. That no code above 4 is recorded
(R220) is so by the model's choice of a type with five names (log 20). -/
def Obligations.ErrcodeIsZeroWheneverErrIsZero : Prop :=
  (∀ s : State, Reachable s → (s.err = false → s.errcode.code = 0) ∧ s.errcode.code ≠ 1 ∧ s.errcode.code ≤ 4) ∧
  (∀ (i : Instr) (s t : State), (s.err = false → s.errcode = .none) → exec i s = .next t →
    t.err = false → t.errcode = .none)

/-- The engine and the serializer have computed what SHA-256 and the frame format say, and every step keeps it so. The
records of the message and of what was delivered are the model's own (log 9). -/
def Obligations.EveryStepKeepsTheFunctionalInvariant : Prop :=
  ∀ s t : State, Inv s → Functional s → step s = .next t → Functional t

/-! ### SHA-256 (spec/40_sha256_engine.md) -/

/-- R110: the padding, its least `k`, the number of blocks, and that the bit length cannot overflow. -/
def Obligations.PaddingIsTheSpecs : Prop :=
  ∀ m : List Byte, m.length < 2 ^ 32 →
    8 * m.length < 2 ^ 64 ∧
    (pad m).length % 64 = 0 ∧ (pad m).length / 64 = (m.length + 8) / 64 + 1 ∧
    ∃ k, pad m = m ++ [0x80] ++ zeros k ++ be64 (BitVec.ofNat 64 (8 * m.length)) ∧
      (m.length + 1 + k) % 64 = 56 ∧ ∀ j < k, (m.length + 1 + j) % 64 ≠ 56

/-- R111, R112: the schedule is the sixteen big-endian message words and then the recurrence. -/
def Obligations.ScheduleFollowsTheRecurrence : Prop :=
  ∀ block : List Byte, block.length = 64 →
    (schedule block).length = 64 ∧
    (∀ t < 16, (schedule block).getD t 0 =
      wordBE (block.getD (4 * t) 0) (block.getD (4 * t + 1) 0) (block.getD (4 * t + 2) 0) (block.getD (4 * t + 3) 0)) ∧
    (∀ t, 16 ≤ t → t < 64 → (schedule block).getD t 0 =
      smallSigma1 ((schedule block).getD (t - 2) 0) + (schedule block).getD (t - 7) 0
        + smallSigma0 ((schedule block).getD (t - 15) 0) + (schedule block).getD (t - 16) 0)

/-- R120: COMPRESS, where it is enabled and where it is not (that the model then refuses it by name is log 3). -/
def Obligations.CompressCompressesTheFullBuffer : Prop :=
  (∀ (s : State) (block : List Byte), s.phase = .payload → s.fill = 64 → s.buf.readBytes 0 64 = some block →
    exec .compress s = .next { s with h := compressBlock s.h block, fill := 0 }) ∧
  (∀ s : State, ¬ (s.phase = .payload ∧ s.fill = 64) → exec .compress s = .refused (.notEnabled .compress)) ∧
  (∀ s : State, s.fill = 64 → inReady s = false ∧ finalizeEnabled s = false)

/-- R121, `f ≤ 55`: one padded block; the digest published; DIGEST in FRAME mode, completion in DIGEST_ONLY mode. -/
def Obligations.FinalizeWithAShortTailPadsOneBlock : Prop :=
  ∀ (s : State) (tail : List Byte),
    s.phase = .payload → s.nin = s.length → s.fill.toNat ≤ 55 →
    s.buf.readBytes 0 s.fill.toNat = some tail →
    let rest := [0x80] ++ zeros (55 - s.fill.toNat) ++ be64 (BitVec.ofNat 64 (8 * s.length.toNat))
    let y := compressBlock s.h (tail ++ rest)
    ∃ t, exec .finalize s = .next t ∧
      t.buf.readBytes s.fill.toNat (64 - s.fill.toNat) = some rest ∧
      (∀ j < s.fill.toNat, t.buf.read j = s.buf.read j) ∧
      t = { s with
        buf := t.buf
        h := y
        fill := 0
        digest := y
        phase := if s.modeq = .frame then .digest else .idle
        gpos := if s.modeq = .frame then 0 else s.gpos
        done := if s.modeq = .frame then s.done else true }

/-- R121, `56 ≤ f ≤ 63`: two blocks, the second zeros and the bit length. -/
def Obligations.FinalizeWithALongTailPadsTwoBlocks : Prop :=
  ∀ (s : State) (tail : List Byte),
    s.phase = .payload → s.nin = s.length → 56 ≤ s.fill.toNat → s.fill.toNat ≤ 63 →
    s.buf.readBytes 0 s.fill.toNat = some tail →
    let rest := [0x80] ++ zeros (63 - s.fill.toNat)
    let y := compressBlock (compressBlock s.h (tail ++ rest))
      (zeros 56 ++ be64 (BitVec.ofNat 64 (8 * s.length.toNat)))
    ∃ t, exec .finalize s = .next t ∧
      t.buf.readBytes s.fill.toNat (64 - s.fill.toNat) = some rest ∧
      (∀ j < s.fill.toNat, t.buf.read j = s.buf.read j) ∧
      t = { s with
        buf := t.buf
        h := y
        fill := 0
        digest := y
        phase := if s.modeq = .frame then .digest else .idle
        gpos := if s.modeq = .frame then 0 else s.gpos
        done := if s.modeq = .frame then s.done else true }

/-- R122: FINALIZE publishes SHA256 of the operation's message M, the accepted bytes of R100 (recorded by the model,
log 9), whatever the interleaving that led to it. -/
def Obligations.FinalizePublishesSha256OfTheMessage : Prop :=
  ∀ s t : State, Reachable s → exec .finalize s = .next t →
    s.message.length = s.length.toNat ∧ t.message = s.message ∧ t.digest.bytes = sha256 s.message

/-- R26: no event reads a `buf` byte that the operation has not written, nor (R27) `H` while idle: two states that
differ only there run alike, and still differ only there. -/
def Obligations.UnwrittenBufferAndIdleHashNeverMatter : Prop :=
  ∀ (i : Instr) (s t : State) (buf' : Buffer) (h' : Hash),
    (∀ j < s.fill.toNat, buf'.read j = s.buf.read j) → (busy s = true → h' = s.h) →
    exec i s = .next t →
    ∃ t', exec i { s with buf := buf', h := h' } = .next t' ∧
      t' = { t with buf := t'.buf, h := t'.h } ∧
      (∀ j < t.fill.toNat, t'.buf.read j = t.buf.read j) ∧ (busy t = true → t'.h = t.h)

/-- R38: DIGEST0..7 change only by FINALIZE and RESET. -/
def Obligations.DigestChangesOnlyByFinalizeAndReset : Prop :=
  ∀ (i : Instr) (s t : State), exec i s = .next t → t.digest ≠ s.digest → i = .finalize ∨ i = .reset

/-! ### The frame serializer (spec/41_frame_serializer.md) -/

/-- R145: the byte GEN produces in each phase, the held register and the advance, where GEN is enabled and its index is
in the phase's range (R23); and that GEN has no step where it is not enabled (the model refuses it by name, log 3). -/
def Obligations.GenProducesTheNextGeneratedByte : Prop :=
  (∀ s : State, s.ov = false →
    (s.phase = .preamble → s.gpos < 8 → exec .gen s = .next
      { s with
        od := preamble.getD s.gpos.toNat 0
        ov := true
        ol := false
        phase := if s.gpos = 7 then .length else .preamble
        gpos := if s.gpos = 7 then 0 else s.gpos + 1 }) ∧
    (s.phase = .length → s.gpos < 4 → exec .gen s = .next
      { s with
        od := s.length.extractLsb' (24 - 8 * s.gpos.toNat) 8
        ov := true
        ol := false
        phase := if s.gpos = 3 then .payload else .length
        gpos := if s.gpos = 3 then 0 else s.gpos + 1 }) ∧
    (s.phase = .digest → s.gpos < 32 → exec .gen s = .next
      { s with
        od := (s.digest.word (BitVec.ofNat 3 (s.gpos.toNat / 4))).extractLsb' (24 - 8 * (s.gpos.toNat % 4)) 8
        ov := true
        ol := decide (s.gpos = 31)
        gpos := s.gpos + 1 })) ∧
  (∀ s : State,
    ¬ (s.ov = false ∧ (s.phase = .preamble ∨ s.phase = .length ∨ (s.phase = .digest ∧ s.gpos < 32))) →
    exec .gen s = .refused (.notEnabled .gen))

/-- R143, R144: the frame's byte at every offset, and its size: 44 bytes more than its payload. -/
def Obligations.FrameByteAtEveryOffset : Prop :=
  ∀ p : List Byte, p.length < 2 ^ 32 →
    (frame p).length = 44 + p.length ∧ ∀ i : Nat, (frame p)[i]? = frameByte p i

/-- R142: the length field's bytes, most significant first, and that it decodes to exactly the length. -/
def Obligations.LengthFieldDecodesExactly : Prop :=
  ∀ n : Nat, n < 2 ^ 32 → ∃ b0 b1 b2 b3 : Byte, be32 (BitVec.ofNat 32 n) = [b0, b1, b2, b3] ∧
    b0.toNat = n / 2 ^ 24 ∧ b1.toNat = n / 2 ^ 16 % 256 ∧ b2.toNat = n / 2 ^ 8 % 256 ∧ b3.toNat = n % 256 ∧
    b0.toNat * 2 ^ 24 + b1.toNat * 2 ^ 16 + b2.toNat * 2 ^ 8 + b3.toNat = n

/-- R149: a receiver recovers the payload from its frame, whatever bytes follow. -/
def Obligations.ReceiverRecoversThePayload : Prop :=
  ∀ p rest : List Byte, p.length < 2 ^ 32 → receive (frame p ++ rest) = some p

/-- R146: the complete set of phase transitions, who takes each, and on what condition. -/
def Obligations.PhaseTransitionsAreTheListedOnes : Prop :=
  ∀ (i : Instr) (s t : State), Inv s → exec i s = .next t → t.phase ≠ s.phase →
    (∃ v, i = .csrWrCtrl v ∧ ctrlAbort v = false ∧ ctrlStart v = true ∧ s.cfg.shaPresent = true ∧
      s.phase = .idle ∧ ((ctrlMode v = .frame ∧ t.phase = .preamble) ∨ (ctrlMode v = .digestOnly ∧ t.phase = .payload))) ∨
    (i = .gen ∧ s.phase = .preamble ∧ s.gpos = 7 ∧ t.phase = .length) ∨
    (i = .gen ∧ s.phase = .length ∧ s.gpos = 3 ∧ t.phase = .payload) ∨
    (i = .finalize ∧ s.phase = .payload ∧ s.modeq = .frame ∧ t.phase = .digest) ∨
    (i = .finalize ∧ s.phase = .payload ∧ s.modeq = .digestOnly ∧ t.phase = .idle ∧ t.done = true) ∨
    (i = .outXfer ∧ s.phase = .digest ∧ s.ol = true ∧ t.phase = .idle ∧ t.done = true) ∨
    (∃ v, i = .csrWrCtrl v ∧ ctrlAbort v = true ∧ s.phase ≠ .idle ∧ t.phase = .idle ∧
      t.err = true ∧ t.errcode = .aborted) ∨
    (i = .reset ∧ t.phase = .idle)

/-- R147, R227: in every reachable state with DONE = 1 after a FRAME operation, the consumer has received exactly
Frame(P) for the accepted payload P, with `last` on its final byte only, and DIGEST0..7 hold SHA256(P). The records of P
and of what was delivered are the model's own (log 9). -/
def Obligations.CompletedFrameOperationDeliveredItsFrame : Prop :=
  ∀ s : State, Reachable s → s.done = true → s.modeq = .frame →
    s.phase = .idle ∧ s.delivered = withLast (frame s.message) ∧ s.digest.bytes = sha256 s.message

/-- R148: a DIGEST_ONLY operation delivers no byte; its FINALIZE ends it with DONE = 1 and SHA256(P) in DIGEST0..7; and
DONE = 1 stands for that result from then on (the records of P and of what was delivered: log 9). -/
def Obligations.CompletedDigestOperationDeliveredNothing : Prop :=
  ∀ s : State, Reachable s → s.modeq = .digestOnly →
    s.delivered = [] ∧
    (∀ t, exec .finalize s = .next t →
      t.phase = .idle ∧ t.done = true ∧ t.delivered = [] ∧ t.message = s.message ∧ t.digest.bytes = sha256 s.message) ∧
    (s.done = true → s.phase = .idle ∧ s.digest.bytes = sha256 s.message)

/-- R71, R143: at every moment of a running FRAME operation the bytes produced so far are a prefix of the frame of
any payload the producer may complete the message to (records: log 9). -/
def Obligations.BytesSoFarAreAPrefixOfTheFrame : Prop :=
  ∀ (s : State) (more : List Byte), Reachable s → busy s = true → s.modeq = .frame →
    (s.message ++ more).length = s.length.toNat → produced s <+: frame (s.message ++ more)

/-- R147, R256, R271: from any reachable idle state of the block as built, every payload up to 2^32 − 1 bytes can be
sent as a frame: some order of stream transfers and engine actions after the START completes the operation (records:
log 9). -/
def Obligations.EveryPayloadCanBeFramed : Prop :=
  ∀ (s : State) (p : List Byte) (wantIrq : Bool), Reachable s → s.phase = .idle → s.cfg.shaPresent = true →
    p.length < 2 ^ 32 →
    ∃ (is : List Instr) (t : State), (∀ i ∈ is, carriesOn i) ∧
      execAll (startFrameOperation (BitVec.ofNat 32 p.length) wantIrq ++ is) s = .next t ∧
      t.phase = .idle ∧ t.done = true ∧ t.err = false ∧ irq t = wantIrq ∧
      t.message = p ∧ t.delivered = withLast (frame p) ∧ t.digest.bytes = sha256 p

/-! ### The streams (spec/42_stream_ports.md) -/

/-- R161, R162: InXfer, where it is enabled and where it is not (the model then refuses it by name, log 3); neither
counter wraps (R24, R25). The record of the message is the model's own (log 9). -/
def Obligations.InXferTakesTheByte : Prop :=
  (∀ (b : Byte) (s : State), s.phase = .payload → s.nin < s.length → s.fill < 64 →
    (s.modeq = .digestOnly ∨ s.ov = false) →
    ∃ t, exec (.inXfer b) s = .next t ∧
      t.buf.read s.fill.toNat = some b ∧ (∀ j, j ≠ s.fill.toNat → t.buf.read j = s.buf.read j) ∧
      t.fill.toNat = s.fill.toNat + 1 ∧ t.nin.toNat = s.nin.toNat + 1 ∧
      t = { s with
        buf := t.buf
        fill := s.fill + 1
        nin := s.nin + 1
        message := s.message ++ [b]
        od := if s.modeq = .frame then b else s.od
        ov := if s.modeq = .frame then true else s.ov
        ol := if s.modeq = .frame then false else s.ol }) ∧
  (∀ (b : Byte) (s : State),
    ¬ (s.phase = .payload ∧ s.nin < s.length ∧ s.fill < 64 ∧ (s.modeq = .digestOnly ∨ s.ov = false)) →
    exec (.inXfer b) s = .refused (.notEnabled (.inXfer b)))

/-- R164: OutXfer delivers the held pair; the last byte completes the operation. The record of what was delivered is the
model's own (log 9), and so is the refusal by name where nothing is held (log 3). -/
def Obligations.OutXferDeliversTheHeldByte : Prop :=
  (∀ s : State, s.ov = true → s.ol = false →
    exec .outXfer s = .next { s with delivered := s.delivered ++ [(s.od, false)], ov := false }) ∧
  (∀ s : State, s.ov = true → s.ol = true →
    exec .outXfer s = .next
      { s with delivered := s.delivered ++ [(s.od, true)], ov := false, ol := false, phase := .idle, done := true }) ∧
  (∀ s : State, s.ov = false → exec .outXfer s = .refused (.notEnabled .outXfer))

/-- R165: a held byte and its last flag stay until the byte is transferred, but for ABORT and RESET. -/
def Obligations.HeldByteIsStableUntilTransferred : Prop :=
  ∀ (i : Instr) (s t : State), s.ov = true → exec i s = .next t →
    (t.ov = true ∧ t.od = s.od ∧ t.ol = s.ol) ∨
    (t.ov = false ∧ (i = .outXfer ∨ (∃ v, i = .csrWrCtrl v ∧ ctrlAbort v = true) ∨ i = .reset))

/-! ### CSR accesses (spec/43_control_registers.md) -/

/-- R173, R176 to R181: what each read but those of CTRL and STATUS returns, in every state; nothing else changes.
The record `rdata` of the result is the model's own (log 8). -/
def Obligations.ReadsReturnTheirRegisters : Prop :=
  ∀ s : State,
    exec .csrRdId s = .next { s with rdata := some 0x53323536 } ∧
    exec .csrRdLength s = .next { s with rdata := some s.length } ∧
    exec .csrRdCount s = .next { s with rdata := some s.nin } ∧
    exec .csrRdCaps s = .next { s with rdata := some (if s.cfg.shaPresent then 1 else 0) } ∧
    (∀ a, exec (.csrRdRsvd a) s = .next { s with rdata := some 0 }) ∧
    (∀ a, exec (.csrRdUnmappedLow a) s = .next { s with rdata := some 0 }) ∧
    (∀ a, exec (.csrRdUnmappedHigh a) s = .next { s with rdata := some 0 }) ∧
    exec (.csrRdDigest 0) s = .next { s with rdata := some s.digest.h0 } ∧
    exec (.csrRdDigest 1) s = .next { s with rdata := some s.digest.h1 } ∧
    exec (.csrRdDigest 2) s = .next { s with rdata := some s.digest.h2 } ∧
    exec (.csrRdDigest 3) s = .next { s with rdata := some s.digest.h3 } ∧
    exec (.csrRdDigest 4) s = .next { s with rdata := some s.digest.h4 } ∧
    exec (.csrRdDigest 5) s = .next { s with rdata := some s.digest.h5 } ∧
    exec (.csrRdDigest 6) s = .next { s with rdata := some s.digest.h6 } ∧
    exec (.csrRdDigest 7) s = .next { s with rdata := some s.digest.h7 }

/-- R32, R33, R174, R175: every bit of what a CTRL read and a STATUS read return, with the codes of R21 and R220 written
out (`rdata`: log 8). -/
def Obligations.CtrlAndStatusReadsPlaceTheirFields : Prop :=
  (∀ s : State, ∃ v : Word, exec .csrRdCtrl s = .next { s with rdata := some v } ∧
    ∀ n, v.getLsbD n = ((decide (n = 1) && decide (s.mode = .digestOnly)) || (decide (n = 3) && s.irqEn))) ∧
  ∀ s : State, ∃ v : Word, exec .csrRdStatus s = .next { s with rdata := some v } ∧
    v.getLsbD 0 = decide (s.phase ≠ .idle) ∧ v.getLsbD 1 = s.done ∧ v.getLsbD 2 = s.err ∧ v.getLsbD 3 = false ∧
    (s.errcode = .none → v.extractLsb' 4 4 = 0) ∧ (s.errcode = .invalidInput → v.extractLsb' 4 4 = 1) ∧
    (s.errcode = .digestUnavailable → v.extractLsb' 4 4 = 2) ∧ (s.errcode = .busyStart → v.extractLsb' 4 4 = 3) ∧
    (s.errcode = .aborted → v.extractLsb' 4 4 = 4) ∧
    (s.phase = .idle → v.extractLsb' 8 3 = 0) ∧ (s.phase = .preamble → v.extractLsb' 8 3 = 1) ∧
    (s.phase = .length → v.extractLsb' 8 3 = 2) ∧ (s.phase = .payload → v.extractLsb' 8 3 = 3) ∧
    (s.phase = .digest → v.extractLsb' 8 3 = 4) ∧
    v.getLsbD 11 = decide (s.modeq = .digestOnly) ∧ v.getLsbD 12 = s.ov ∧ v.getLsbD 13 = inReady s ∧
    ∀ n, 14 ≤ n → v.getLsbD n = false

/-- R171, R69: no read changes the block's state, and repeating it returns the same value (`rdata`: log 8). -/
def Obligations.ReadsHaveNoSideEffectAndRepeat : Prop :=
  ∀ (i : Instr) (s : State), isCsrRead i = true →
    ∃ t, exec i s = .next t ∧ t = { s with rdata := t.rdata } ∧ t.rdata.isSome = true ∧ exec i t = .next t

/-- R172, R182, R183, R191 to R195: writes to read-only, reserved and unmapped locations change nothing. -/
def Obligations.WritesToReadOnlyLocationsChangeNothing : Prop :=
  ∀ (s : State) (v : Word),
    exec (.csrWrId v) s = .next s ∧ exec (.csrWrCount v) s = .next s ∧ exec (.csrWrCaps v) s = .next s ∧
    (∀ a, exec (.csrWrRsvd a v) s = .next s) ∧ (∀ k, exec (.csrWrDigest k v) s = .next s) ∧
    (∀ a, exec (.csrWrUnmappedLow a v) s = .next s) ∧ (∀ a, exec (.csrWrUnmappedHigh a v) s = .next s)

/-- R190: LENGTH is written when idle, with any value, and the write is dropped while busy. -/
def Obligations.LengthIsWrittenOnlyWhenIdle : Prop :=
  ∀ (s : State) (v : Word),
    (s.phase = .idle → exec (.csrWrLength v) s = .next { s with length := v }) ∧
    (s.phase ≠ .idle → exec (.csrWrLength v) s = .next s)

/-- R189: the W1C write of STATUS. -/
def Obligations.StatusWriteClearsTheOnes : Prop :=
  ∀ (s : State) (v : Word), exec (.csrWrStatus v) s = .next
    { s with
      done := s.done && !v.getLsbD 1
      err := s.err && !v.getLsbD 2
      errcode := if v.getLsbD 2 then .none else s.errcode }

/-- R186 without a command: MODE and IRQ_EN are written on every CTRL write, and nothing else. -/
def Obligations.CtrlWriteWithoutCommandWritesModeAndIrqEn : Prop :=
  ∀ (s : State) (v : Word), v.getLsbD 2 = false → v.getLsbD 0 = false →
    exec (.csrWrCtrl v) s = .next
      { s with mode := if v.getLsbD 1 then .digestOnly else .frame, irqEn := v.getLsbD 3 }

/-- R187: ABORT, while busy and while idle, whatever START says. -/
def Obligations.AbortReturnsToIdleAndRecords : Prop :=
  ∀ (s : State) (v : Word), v.getLsbD 2 = true →
    let mode := if v.getLsbD 1 then Mode.digestOnly else Mode.frame
    (s.phase ≠ .idle → exec (.csrWrCtrl v) s = .next
      { s with mode := mode, irqEn := v.getLsbD 3, phase := .idle, ov := false, ol := false,
               err := true, errcode := .aborted }) ∧
    (s.phase = .idle → exec (.csrWrCtrl v) s = .next { s with mode := mode, irqEn := v.getLsbD 3 })

/-- R188: START, while busy, with the engine absent, and accepted. An accepted START begins the model's own records of
the message and of what is delivered anew (log 9). -/
def Obligations.StartIsRefusedOrBeginsAnOperation : Prop :=
  ∀ (s : State) (v : Word), v.getLsbD 2 = false → v.getLsbD 0 = true →
    let mode := if v.getLsbD 1 then Mode.digestOnly else Mode.frame
    (s.phase ≠ .idle → exec (.csrWrCtrl v) s = .next
      { s with mode := mode, irqEn := v.getLsbD 3, err := true, errcode := .busyStart }) ∧
    (s.phase = .idle → s.cfg.shaPresent = false → exec (.csrWrCtrl v) s = .next
      { s with mode := mode, irqEn := v.getLsbD 3, done := false, err := true, errcode := .digestUnavailable }) ∧
    (s.phase = .idle → s.cfg.shaPresent = true → exec (.csrWrCtrl v) s = .next
      { s with
        mode := mode, irqEn := v.getLsbD 3, done := false, err := false, errcode := .none, modeq := mode,
        h := ⟨0x6a09e667, 0xbb67ae85, 0x3c6ef372, 0xa54ff53a, 0x510e527f, 0x9b05688c, 0x1f83d9ab, 0x5be0cd19⟩,
        fill := 0, nin := 0, gpos := 0, phase := if v.getLsbD 1 then .payload else .preamble,
        message := [], delivered := [] })

/-- R75: the configuration of a running operation is frozen for its lifetime. -/
def Obligations.RunningOperationKeepsItsLengthAndMode : Prop :=
  ∀ (i : Instr) (s t : State), busy s = true → exec i s = .next t → busy t = true →
    t.length = s.length ∧ t.modeq = s.modeq

/-! ### Flags, errors and the interrupt (spec/10_state.md R39, spec/60_exceptions.md) -/

/-- R39: DONE and ERR are set and cleared by the listed rules and by no other, and BUSY likewise. -/
def Obligations.FlagsChangeOnlyAsListed : Prop :=
  ∀ (i : Instr) (s t : State), Inv s → exec i s = .next t →
    (s.done = false → t.done = true →
      (i = .outXfer ∧ s.ol = true) ∨ (i = .finalize ∧ s.modeq = .digestOnly)) ∧
    (s.done = true → t.done = false →
      (∃ v, i = .csrWrCtrl v ∧ ctrlAbort v = false ∧ ctrlStart v = true ∧ busy s = false) ∨
      (∃ v, i = .csrWrStatus v ∧ v.getLsbD 1 = true) ∨ i = .reset) ∧
    (s.err = false → t.err = true →
      ∃ v, i = .csrWrCtrl v ∧ ((ctrlAbort v = true ∧ busy s = true) ∨
        (ctrlAbort v = false ∧ ctrlStart v = true ∧ (busy s = true ∨ s.cfg.shaPresent = false)))) ∧
    (s.err = true → t.err = false →
      (∃ v, i = .csrWrCtrl v ∧ ctrlAbort v = false ∧ ctrlStart v = true ∧ busy s = false ∧ s.cfg.shaPresent = true) ∨
      (∃ v, i = .csrWrStatus v ∧ v.getLsbD 2 = true) ∨ i = .reset) ∧
    (busy s = false → busy t = true →
      ∃ v, i = .csrWrCtrl v ∧ ctrlAbort v = false ∧ ctrlStart v = true ∧ s.cfg.shaPresent = true) ∧
    (busy s = true → busy t = false →
      (i = .outXfer ∧ s.ol = true ∧ t.done = true) ∨ (i = .finalize ∧ s.modeq = .digestOnly ∧ t.done = true) ∨
      (∃ v, i = .csrWrCtrl v ∧ ctrlAbort v = true) ∨ i = .reset)

/-- R220: an event that leaves a new error record is a START or an ABORT, and the code is its cause's. -/
def Obligations.ErrorsAreRaisedOnlyByStartAndAbort : Prop :=
  ∀ (i : Instr) (s t : State), exec i s = .next t → t.err = true → (s.err = false ∨ t.errcode ≠ s.errcode) →
    ∃ v, i = .csrWrCtrl v ∧
      ((ctrlAbort v = true ∧ busy s = true ∧ t.errcode = .aborted) ∨
       (ctrlAbort v = false ∧ ctrlStart v = true ∧ busy s = true ∧ t.errcode = .busyStart) ∨
       (ctrlAbort v = false ∧ ctrlStart v = true ∧ busy s = false ∧ s.cfg.shaPresent = false ∧
         t.errcode = .digestUnavailable))

/-- R230: what can make `irq` rise, and what can make it fall. -/
def Obligations.IrqRisesAndFallsOnlyAsListed : Prop :=
  ∀ (i : Instr) (s t : State), exec i s = .next t →
    (irq s = false → irq t = true →
      i = .outXfer ∨ i = .finalize ∨ ∃ v, i = .csrWrCtrl v ∧ v.getLsbD 3 = true) ∧
    (irq s = true → irq t = false →
      (∃ v, i = .csrWrStatus v ∧ (s.done = true → v.getLsbD 1 = true) ∧ (s.err = true → v.getLsbD 2 = true)) ∨
      (∃ v, i = .csrWrCtrl v ∧ v.getLsbD 3 = false) ∨
      (∃ v, i = .csrWrCtrl v ∧ ctrlAbort v = false ∧ ctrlStart v = true ∧ busy s = false ∧ s.cfg.shaPresent = true) ∨
      i = .reset)

/-- R124, R225: without the engine no operation ever starts and no stream or engine action has a step (the refusal by
name is log 3, the record of what was delivered log 9). -/
def Obligations.WithoutTheEngineNothingStarts : Prop :=
  ∀ s : State, Reachable s → s.cfg.shaPresent = false →
    s.phase = .idle ∧ s.done = false ∧ s.delivered = [] ∧
    (∀ i, carriesOn i → exec i s = .refused (.notEnabled i)) ∧
    (∀ v : Word, v.getLsbD 2 = false → v.getLsbD 0 = true →
      ∃ t, exec (.csrWrCtrl v) s = .next t ∧ t.phase = .idle ∧ t.err = true ∧ t.errcode = .digestUnavailable)

/-! ### Progress (spec/70_reset_and_hazards.md) -/

/-- R271: a busy block always has an enabled action of the producer, the consumer or the engine. -/
def Obligations.BusyBlockAlwaysHasAnEnabledAction : Prop :=
  ∀ s : State, Inv s → busy s = true →
    (∀ b, enabled (.inXfer b) s = true) ∨ enabled .outXfer s = true ∨ ∃ a : EngineAction, enabled a.event s = true

/-- R271: every stream transfer and every engine action leaves less work, so none can go on for ever. -/
def Obligations.EveryTransferAndActionReducesTheWork : Prop :=
  ∀ (i : Instr) (s t : State), Inv s → carriesOn i → exec i s = .next t → workLeft t < workLeft s

/-- R260, 93 K-12: while the producer owes bytes, nothing but ABORT or RESET ends the wait in PAYLOAD. -/
def Obligations.UnderSuppliedOperationWaitsInPayload : Prop :=
  ∀ (i : Instr) (s t : State), Inv s → s.phase = .payload → s.nin < s.length → exec i s = .next t →
    (t.phase = .payload ∧ t.done = false ∧ (t.nin = s.nin ∨ ∃ b, i = .inXfer b)) ∨
    (∃ v, i = .csrWrCtrl v ∧ ctrlAbort v = true) ∨ i = .reset

/-- R270, R271: under weak fairness of the engine, a running operation completes if the producer goes on offering,
the consumer (in FRAME mode) goes on accepting, and the host only reads (bounds: log 15; cycles: log 13). -/
def Obligations.FairRunCompletesTheOperation : Prop :=
  ∀ (ps : Nat → CycleIn) (s : State), Inv s → busy s = true → FairRun ps s →
    (∀ n, (ps n).rstN = true ∧ (ps n).csrWe = false) →
    (∀ n, ∃ m, n ≤ m ∧ (ps m).inValid = true) →
    (s.modeq = .frame → ∀ n, ∃ m, n ≤ m ∧ (ps m).outReady = true) →
    ∃ n t, runCycles ps n s = .next t ∧ t.phase = .idle ∧ t.done = true

/-! ### One clock cycle (spec/20_memory.md R72, spec/42_stream_ports.md R160) -/

/-- R82, R160, R166: a cycle in which one event occurs is that event (with the free-value counter moved on, log 12);
both CSR strobes spell no event; an offer alone, while the block is not ready for it, leaves the state, and so does an
acceptance alone with no byte held, and the two together (cycles: log 13). -/
def Obligations.CycleOfOneEventIsThatEvent : Prop :=
  ∀ s : State,
    let moved (o : Outcome) : Outcome := andThen o fun t => .next { t with draws := t.draws + 1 }
    (∀ a, cycle { CycleIn.quiet with csrRe := true, csrAddr := a } s = moved (exec (readEvent a) s)) ∧
    (∀ a v, cycle { CycleIn.quiet with csrWe := true, csrAddr := a, csrWdata := v } s = moved (exec (writeEvent a v) s)) ∧
    (∀ b, inReady s = true →
      cycle { CycleIn.quiet with inValid := true, inData := b } s = moved (exec (.inXfer b) s)) ∧
    (s.ov = true → cycle { CycleIn.quiet with outReady := true } s = moved (exec .outXfer s)) ∧
    (∀ e : EngineAction, cycle { CycleIn.quiet with commit := some e } s = moved (exec e.event s)) ∧
    (∀ p : CycleIn, p.rstN = false → cycle p s = moved (exec .reset s)) ∧
    (∀ p : CycleIn, p.rstN = true → p.csrWe = true → p.csrRe = true → cycle p s = .refused .simultaneousCsr) ∧
    (∀ b, inReady s = false → cycle { CycleIn.quiet with inValid := true, inData := b } s = moved (.next s)) ∧
    (s.ov = false → cycle { CycleIn.quiet with outReady := true } s = moved (.next s)) ∧
    (∀ b, inReady s = false → s.ov = false →
      cycle { CycleIn.quiet with inValid := true, inData := b, outReady := true } s = moved (.next s))

/-- R72: no two of OUT, IN and an engine action are enabled together, but OUT with COMPRESS or FINALIZE, and those two
commute. -/
def Obligations.CycleActionsDoNotInterfere : Prop :=
  ∀ s : State, Inv s →
    (inReady s = true → s.ov = false ∧ ∀ a : EngineAction, enabled a.event s = false) ∧
    (s.ov = true → genEnabled s = false) ∧
    (∀ a b : EngineAction, enabled a.event s = true → enabled b.event s = true → a = b) ∧
    (s.ov = true → ∀ a : EngineAction, enabled a.event s = true →
      andThen (exec .outXfer s) (exec a.event) = andThen (exec a.event s) (exec .outXfer))

/-- R72: a cycle's change of state is the serial application, to the start-of-cycle state, of the events that occur in it
in R72's order, but for the free-value counter (log 12); a cycle the block takes (log 13) answers wherever they do; and
so each cycle is one interleaving of atomic actions. -/
def Obligations.EveryCycleIsAnInterleaving : Prop :=
  ∀ (p : CycleIn) (s : State),
    (∀ t, cycle p s = .next t →
      t.draws = s.draws + 1 ∧ execAll (cycleEvents p s) s = .next { t with draws := s.draws } ∧
      (Reachable s → Reachable t)) ∧
    (∀ t, (p.rstN = true → (p.csrWe && p.csrRe) = false ∧ ∀ a, p.commit = some a → enabled a.event s = true) →
      execAll (cycleEvents p s) s = .next t → cycle p s = .next { t with draws := t.draws + 1 })

/-- R232 (a), (b), (c): a completion in the same cycle as an ABORT, a START or a clearing write of STATUS. Either way of
completing: OUT of the last byte, or FINALIZE in DIGEST_ONLY mode (R227; cycles: log 13). -/
def Obligations.CompletionInTheSameCycleComesFirst : Prop :=
  ∀ (s : State) (p : CycleIn), Inv s → p.rstN = true → p.csrRe = false → p.csrWe = true →
    ((s.ov = true ∧ s.ol = true ∧ p.outReady = true ∧ p.commit = none) ∨
     (s.modeq = .digestOnly ∧ finalizeEnabled s = true ∧ p.commit = some .finalize)) →
    (p.csrAddr = 1 → p.csrWdata.getLsbD 2 = true →
      ∃ t, cycle p s = .next t ∧ t.phase = .idle ∧ t.done = true ∧ t.err = s.err ∧ t.errcode = s.errcode) ∧
    (p.csrAddr = 1 → p.csrWdata.getLsbD 2 = false → p.csrWdata.getLsbD 0 = true →
      ∃ t, cycle p s = .next t ∧ busy t = true ∧ t.done = false ∧ t.err = false) ∧
    (p.csrAddr = 2 → p.csrWdata.getLsbD 1 = true →
      ∃ t, cycle p s = .next t ∧ t.phase = .idle ∧ t.done = false)

/-- R163, R160, R251: the output ports, out of reset and in it, and that RESET ends in the idle state with `irq` low. What
a read in the cycle returns is said through the model's record `rdata` (log 8); nothing is said of `csr_rdata` without a
read, nor of `out_data` in reset (free values, logs 12, 24). -/
def Obligations.OutputPortsFollowTheState : Prop :=
  ∀ (p : CycleIn) (s : State),
    (p.rstN = true → (outputs p s).outValid = s.ov ∧ (outputs p s).outData = s.od ∧ (outputs p s).outLast = s.ol ∧
      (outputs p s).inReady = inReady s ∧ (outputs p s).irq = (s.irqEn && (s.done || s.err)) ∧
      (p.csrRe = true → exec (readEvent p.csrAddr) s = .next { s with rdata := some (outputs p s).csrRdata })) ∧
    (p.rstN = false → (outputs p s).inReady = false ∧ (outputs p s).outValid = false ∧
      (outputs p s).outLast = false ∧ (outputs p s).irq = false ∧
      ∃ t, cycle p s = .next t ∧ t.phase = .idle ∧ irq t = false ∧ t.ov = false)
end

