-- ==== Sys2Proof/Laws/Buffer.lean ====
section
/-! SUPPORT. The block buffer: reads after writes, and that every write keeps the canonical form. -/

namespace Sys2Proof.Machine

theorem Buffer.read_write_same (m : Buffer) (i : Nat) (b : Byte) : (m.write i b).read i = some b := by
  induction m with
  | nil => simp [Buffer.write, Buffer.read]
  | cons c rest ih =>
    obtain ⟨a, x⟩ := c
    simp only [Buffer.write]
    split
    · simp [Buffer.read]
    · split
      · simp [Buffer.read]
      · next h => simp [Buffer.read, Ne.symm h, ih]

theorem Buffer.read_write_other (m : Buffer) {i j : Nat} (b : Byte) (h : j ≠ i) :
    (m.write i b).read j = m.read j := by
  induction m with
  | nil => simp [Buffer.write, Buffer.read, Ne.symm h]
  | cons c rest ih =>
    obtain ⟨a, x⟩ := c
    simp only [Buffer.write]
    split
    · simp [Buffer.read, Ne.symm h]
    · split
      · next e => subst e; simp [Buffer.read, Ne.symm h]
      · simp only [Buffer.read, ih]

theorem Buffer.read_write (m : Buffer) (i j : Nat) (b : Byte) :
    (m.write i b).read j = if j = i then some b else m.read j := by
  split
  · next e => subst e; exact m.read_write_same j b
  · next e => exact m.read_write_other b e

/-- After a run of writes an index inside it reads its byte, and every other index reads as before. -/
theorem Buffer.read_writeBytes (m : Buffer) (i j : Nat) (bs : List Byte) :
    (m.writeBytes i bs).read j = if i ≤ j ∧ j < i + bs.length then bs[j - i]? else m.read j := by
  induction bs generalizing m i with
  | nil => simp only [Buffer.writeBytes, List.length_nil]; rw [if_neg (by omega)]
  | cons b rest ih =>
    simp only [Buffer.writeBytes, ih, List.length_cons, Buffer.read_write]
    by_cases h : j = i
    · subst h; rw [if_neg (by omega), if_pos rfl, if_pos (by omega)]; simp
    · by_cases h2 : i + 1 ≤ j ∧ j < i + 1 + rest.length
      · rw [if_pos h2, if_pos (by omega)]
        have e : j - i = (j - (i + 1)) + 1 := by omega
        rw [e, List.getElem?_cons_succ]
      · rw [if_neg h2, if_neg h, if_neg (by omega)]

theorem Buffer.risingFrom_mono {lo lo' : Nat} (h : lo' ≤ lo) (m : Buffer) (hm : Buffer.risingFrom lo m = true) :
    Buffer.risingFrom lo' m = true := by
  cases m with
  | nil => rfl
  | cons c rest =>
    obtain ⟨a, x⟩ := c
    simp only [Buffer.risingFrom, Bool.and_eq_true, decide_eq_true_eq] at hm ⊢
    exact ⟨⟨by omega, hm.1.2⟩, hm.2⟩

theorem Buffer.write_risingFrom (m : Buffer) {lo i : Nat} (b : Byte) (hlo : lo ≤ i) (hi : i < 64)
    (hm : Buffer.risingFrom lo m = true) : Buffer.risingFrom lo (m.write i b) = true := by
  induction m generalizing lo with
  | nil => simp [Buffer.write, Buffer.risingFrom, hlo, hi]
  | cons c rest ih =>
    obtain ⟨a, x⟩ := c
    simp only [Buffer.risingFrom, Bool.and_eq_true, decide_eq_true_eq] at hm
    simp only [Buffer.write]
    split
    · simp only [Buffer.risingFrom, Bool.and_eq_true, decide_eq_true_eq]
      exact ⟨⟨hlo, hi⟩, ⟨by omega, hm.1.2⟩, hm.2⟩
    · split
      · next e =>
        subst e
        simp only [Buffer.risingFrom, Bool.and_eq_true, decide_eq_true_eq]
        exact ⟨⟨hlo, hi⟩, hm.2⟩
      · simp only [Buffer.risingFrom, Bool.and_eq_true, decide_eq_true_eq]
        exact ⟨hm.1, ih (by omega) hm.2⟩

/-- A write inside the buffer keeps the canonical form. -/
theorem Buffer.write_wf (m : Buffer) {i : Nat} (b : Byte) (hi : i < 64) (hm : m.wf = true) :
    (m.write i b).wf = true := Buffer.write_risingFrom m b (Nat.zero_le i) hi hm

/-- A run of writes inside the buffer keeps the canonical form. -/
theorem Buffer.writeBytes_wf (m : Buffer) (i : Nat) (bs : List Byte) (hi : i + bs.length ≤ 64) (hm : m.wf = true) :
    (m.writeBytes i bs).wf = true := by
  induction bs generalizing m i with
  | nil => simpa [Buffer.writeBytes] using hm
  | cons b rest ih =>
    simp only [List.length_cons] at hi
    exact ih _ _ (by omega) (m.write_wf b (by omega) hm)

theorem Buffer.empty_wf : Buffer.wf [] = true := rfl

/-- Reading a range gives exactly the bytes each index holds. -/
theorem Buffer.readBytes_eq_some (m : Buffer) (i n : Nat) (bs : List Byte) :
    m.readBytes i n = some bs ↔ bs.length = n ∧ ∀ j < n, m.read (i + j) = bs[j]? := by
  induction n generalizing i bs with
  | zero =>
    simp only [Buffer.readBytes, Option.some.injEq]
    constructor
    · rintro rfl; simp
    · rintro ⟨h, -⟩; exact (List.length_eq_zero_iff.mp h).symm
  | succ n ih =>
    constructor
    · intro h
      simp only [Buffer.readBytes] at h
      split at h
      · next b cs hb hcs =>
        simp only [Option.some.injEq] at h
        subst h
        obtain ⟨hl, hr⟩ := (ih _ _).mp hcs
        refine ⟨by simp [hl], fun j hj => ?_⟩
        cases j with
        | zero => simpa using hb
        | succ j =>
          have := hr j (by omega)
          rw [List.getElem?_cons_succ, ← this]
          congr 1; omega
      · exact absurd h (by simp)
    · rintro ⟨hl, hr⟩
      cases bs with
      | nil => simp at hl
      | cons b cs =>
        have h0 := hr 0 (by omega)
        have hcs : m.readBytes (i + 1) n = some cs := by
          refine (ih _ _).mpr ⟨by simpa using hl, fun j hj => ?_⟩
          have := hr (j + 1) (by omega)
          rw [List.getElem?_cons_succ] at this
          rw [← this]; congr 1; omega
        simp only [Nat.add_zero, List.getElem?_cons_zero] at h0
        simp only [Buffer.readBytes, h0, hcs]

/-- A range whose every index holds a value can be read. -/
theorem Buffer.readBytes_isSome (m : Buffer) (i n : Nat) (h : ∀ j < n, (m.read (i + j)).isSome = true) :
    (m.readBytes i n).isSome = true := by
  induction n generalizing i with
  | zero => rfl
  | succ n ih =>
    have h0 := h 0 (by omega)
    have h1 := ih (i + 1) (fun j hj => by have := h (j + 1) (by omega); rwa [Nat.add_assoc, Nat.add_comm 1 j])
    obtain ⟨b, hb⟩ := Option.isSome_iff_exists.mp h0
    obtain ⟨bs, hbs⟩ := Option.isSome_iff_exists.mp h1
    simp only [Nat.add_zero] at hb
    simp [Buffer.readBytes, hb, hbs]

end Sys2Proof.Machine
end

