-- ==== Sys2Proof/Laws/State.lean ====
section
/-! SUPPORT. What each named update of the state does to each field: one lemma a field, true by rfl. -/

namespace Sys2Proof.Machine

/-! ### returnValue -/

@[simp] theorem returnValue_cfg (v : Word) (s : State) : (returnValue v s).cfg = s.cfg := rfl
@[simp] theorem returnValue_phase (v : Word) (s : State) : (returnValue v s).phase = s.phase := rfl
@[simp] theorem returnValue_modeq (v : Word) (s : State) : (returnValue v s).modeq = s.modeq := rfl
@[simp] theorem returnValue_gpos (v : Word) (s : State) : (returnValue v s).gpos = s.gpos := rfl
@[simp] theorem returnValue_nin (v : Word) (s : State) : (returnValue v s).nin = s.nin := rfl
@[simp] theorem returnValue_fill (v : Word) (s : State) : (returnValue v s).fill = s.fill := rfl
@[simp] theorem returnValue_buf (v : Word) (s : State) : (returnValue v s).buf = s.buf := rfl
@[simp] theorem returnValue_h (v : Word) (s : State) : (returnValue v s).h = s.h := rfl
@[simp] theorem returnValue_ov (v : Word) (s : State) : (returnValue v s).ov = s.ov := rfl
@[simp] theorem returnValue_od (v : Word) (s : State) : (returnValue v s).od = s.od := rfl
@[simp] theorem returnValue_ol (v : Word) (s : State) : (returnValue v s).ol = s.ol := rfl
@[simp] theorem returnValue_mode (v : Word) (s : State) : (returnValue v s).mode = s.mode := rfl
@[simp] theorem returnValue_irqEn (v : Word) (s : State) : (returnValue v s).irqEn = s.irqEn := rfl
@[simp] theorem returnValue_done (v : Word) (s : State) : (returnValue v s).done = s.done := rfl
@[simp] theorem returnValue_err (v : Word) (s : State) : (returnValue v s).err = s.err := rfl
@[simp] theorem returnValue_errcode (v : Word) (s : State) : (returnValue v s).errcode = s.errcode := rfl
@[simp] theorem returnValue_length (v : Word) (s : State) : (returnValue v s).length = s.length := rfl
@[simp] theorem returnValue_digest (v : Word) (s : State) : (returnValue v s).digest = s.digest := rfl
@[simp] theorem returnValue_events (v : Word) (s : State) : (returnValue v s).events = s.events := rfl
@[simp] theorem returnValue_rdata (v : Word) (s : State) : (returnValue v s).rdata = some v := rfl
@[simp] theorem returnValue_message (v : Word) (s : State) : (returnValue v s).message = s.message := rfl
@[simp] theorem returnValue_delivered (v : Word) (s : State) : (returnValue v s).delivered = s.delivered := rfl
@[simp] theorem returnValue_draws (v : Word) (s : State) : (returnValue v s).draws = s.draws := rfl

/-! ### raiseError -/

@[simp] theorem raiseError_cfg (c : ErrCode) (s : State) : (raiseError c s).cfg = s.cfg := rfl
@[simp] theorem raiseError_phase (c : ErrCode) (s : State) : (raiseError c s).phase = s.phase := rfl
@[simp] theorem raiseError_modeq (c : ErrCode) (s : State) : (raiseError c s).modeq = s.modeq := rfl
@[simp] theorem raiseError_gpos (c : ErrCode) (s : State) : (raiseError c s).gpos = s.gpos := rfl
@[simp] theorem raiseError_nin (c : ErrCode) (s : State) : (raiseError c s).nin = s.nin := rfl
@[simp] theorem raiseError_fill (c : ErrCode) (s : State) : (raiseError c s).fill = s.fill := rfl
@[simp] theorem raiseError_buf (c : ErrCode) (s : State) : (raiseError c s).buf = s.buf := rfl
@[simp] theorem raiseError_h (c : ErrCode) (s : State) : (raiseError c s).h = s.h := rfl
@[simp] theorem raiseError_ov (c : ErrCode) (s : State) : (raiseError c s).ov = s.ov := rfl
@[simp] theorem raiseError_od (c : ErrCode) (s : State) : (raiseError c s).od = s.od := rfl
@[simp] theorem raiseError_ol (c : ErrCode) (s : State) : (raiseError c s).ol = s.ol := rfl
@[simp] theorem raiseError_mode (c : ErrCode) (s : State) : (raiseError c s).mode = s.mode := rfl
@[simp] theorem raiseError_irqEn (c : ErrCode) (s : State) : (raiseError c s).irqEn = s.irqEn := rfl
@[simp] theorem raiseError_done (c : ErrCode) (s : State) : (raiseError c s).done = s.done := rfl
@[simp] theorem raiseError_err (c : ErrCode) (s : State) : (raiseError c s).err = true := rfl
@[simp] theorem raiseError_errcode (c : ErrCode) (s : State) : (raiseError c s).errcode = c := rfl
@[simp] theorem raiseError_length (c : ErrCode) (s : State) : (raiseError c s).length = s.length := rfl
@[simp] theorem raiseError_digest (c : ErrCode) (s : State) : (raiseError c s).digest = s.digest := rfl
@[simp] theorem raiseError_events (c : ErrCode) (s : State) : (raiseError c s).events = s.events := rfl
@[simp] theorem raiseError_rdata (c : ErrCode) (s : State) : (raiseError c s).rdata = s.rdata := rfl
@[simp] theorem raiseError_message (c : ErrCode) (s : State) : (raiseError c s).message = s.message := rfl
@[simp] theorem raiseError_delivered (c : ErrCode) (s : State) : (raiseError c s).delivered = s.delivered := rfl
@[simp] theorem raiseError_draws (c : ErrCode) (s : State) : (raiseError c s).draws = s.draws := rfl

/-! ### clearDone -/

@[simp] theorem clearDone_cfg (s : State) : (clearDone s).cfg = s.cfg := rfl
@[simp] theorem clearDone_phase (s : State) : (clearDone s).phase = s.phase := rfl
@[simp] theorem clearDone_modeq (s : State) : (clearDone s).modeq = s.modeq := rfl
@[simp] theorem clearDone_gpos (s : State) : (clearDone s).gpos = s.gpos := rfl
@[simp] theorem clearDone_nin (s : State) : (clearDone s).nin = s.nin := rfl
@[simp] theorem clearDone_fill (s : State) : (clearDone s).fill = s.fill := rfl
@[simp] theorem clearDone_buf (s : State) : (clearDone s).buf = s.buf := rfl
@[simp] theorem clearDone_h (s : State) : (clearDone s).h = s.h := rfl
@[simp] theorem clearDone_ov (s : State) : (clearDone s).ov = s.ov := rfl
@[simp] theorem clearDone_od (s : State) : (clearDone s).od = s.od := rfl
@[simp] theorem clearDone_ol (s : State) : (clearDone s).ol = s.ol := rfl
@[simp] theorem clearDone_mode (s : State) : (clearDone s).mode = s.mode := rfl
@[simp] theorem clearDone_irqEn (s : State) : (clearDone s).irqEn = s.irqEn := rfl
@[simp] theorem clearDone_done (s : State) : (clearDone s).done = false := rfl
@[simp] theorem clearDone_err (s : State) : (clearDone s).err = s.err := rfl
@[simp] theorem clearDone_errcode (s : State) : (clearDone s).errcode = s.errcode := rfl
@[simp] theorem clearDone_length (s : State) : (clearDone s).length = s.length := rfl
@[simp] theorem clearDone_digest (s : State) : (clearDone s).digest = s.digest := rfl
@[simp] theorem clearDone_events (s : State) : (clearDone s).events = s.events := rfl
@[simp] theorem clearDone_rdata (s : State) : (clearDone s).rdata = s.rdata := rfl
@[simp] theorem clearDone_message (s : State) : (clearDone s).message = s.message := rfl
@[simp] theorem clearDone_delivered (s : State) : (clearDone s).delivered = s.delivered := rfl
@[simp] theorem clearDone_draws (s : State) : (clearDone s).draws = s.draws := rfl

/-! ### clearErr -/

@[simp] theorem clearErr_cfg (s : State) : (clearErr s).cfg = s.cfg := rfl
@[simp] theorem clearErr_phase (s : State) : (clearErr s).phase = s.phase := rfl
@[simp] theorem clearErr_modeq (s : State) : (clearErr s).modeq = s.modeq := rfl
@[simp] theorem clearErr_gpos (s : State) : (clearErr s).gpos = s.gpos := rfl
@[simp] theorem clearErr_nin (s : State) : (clearErr s).nin = s.nin := rfl
@[simp] theorem clearErr_fill (s : State) : (clearErr s).fill = s.fill := rfl
@[simp] theorem clearErr_buf (s : State) : (clearErr s).buf = s.buf := rfl
@[simp] theorem clearErr_h (s : State) : (clearErr s).h = s.h := rfl
@[simp] theorem clearErr_ov (s : State) : (clearErr s).ov = s.ov := rfl
@[simp] theorem clearErr_od (s : State) : (clearErr s).od = s.od := rfl
@[simp] theorem clearErr_ol (s : State) : (clearErr s).ol = s.ol := rfl
@[simp] theorem clearErr_mode (s : State) : (clearErr s).mode = s.mode := rfl
@[simp] theorem clearErr_irqEn (s : State) : (clearErr s).irqEn = s.irqEn := rfl
@[simp] theorem clearErr_done (s : State) : (clearErr s).done = s.done := rfl
@[simp] theorem clearErr_err (s : State) : (clearErr s).err = false := rfl
@[simp] theorem clearErr_errcode (s : State) : (clearErr s).errcode = .none := rfl
@[simp] theorem clearErr_length (s : State) : (clearErr s).length = s.length := rfl
@[simp] theorem clearErr_digest (s : State) : (clearErr s).digest = s.digest := rfl
@[simp] theorem clearErr_events (s : State) : (clearErr s).events = s.events := rfl
@[simp] theorem clearErr_rdata (s : State) : (clearErr s).rdata = s.rdata := rfl
@[simp] theorem clearErr_message (s : State) : (clearErr s).message = s.message := rfl
@[simp] theorem clearErr_delivered (s : State) : (clearErr s).delivered = s.delivered := rfl
@[simp] theorem clearErr_draws (s : State) : (clearErr s).draws = s.draws := rfl

/-! ### complete -/

@[simp] theorem complete_cfg (s : State) : (complete s).cfg = s.cfg := rfl
@[simp] theorem complete_phase (s : State) : (complete s).phase = .idle := rfl
@[simp] theorem complete_modeq (s : State) : (complete s).modeq = s.modeq := rfl
@[simp] theorem complete_gpos (s : State) : (complete s).gpos = s.gpos := rfl
@[simp] theorem complete_nin (s : State) : (complete s).nin = s.nin := rfl
@[simp] theorem complete_fill (s : State) : (complete s).fill = s.fill := rfl
@[simp] theorem complete_buf (s : State) : (complete s).buf = s.buf := rfl
@[simp] theorem complete_h (s : State) : (complete s).h = s.h := rfl
@[simp] theorem complete_ov (s : State) : (complete s).ov = s.ov := rfl
@[simp] theorem complete_od (s : State) : (complete s).od = s.od := rfl
@[simp] theorem complete_ol (s : State) : (complete s).ol = s.ol := rfl
@[simp] theorem complete_mode (s : State) : (complete s).mode = s.mode := rfl
@[simp] theorem complete_irqEn (s : State) : (complete s).irqEn = s.irqEn := rfl
@[simp] theorem complete_done (s : State) : (complete s).done = true := rfl
@[simp] theorem complete_err (s : State) : (complete s).err = s.err := rfl
@[simp] theorem complete_errcode (s : State) : (complete s).errcode = s.errcode := rfl
@[simp] theorem complete_length (s : State) : (complete s).length = s.length := rfl
@[simp] theorem complete_digest (s : State) : (complete s).digest = s.digest := rfl
@[simp] theorem complete_events (s : State) : (complete s).events = s.events := rfl
@[simp] theorem complete_rdata (s : State) : (complete s).rdata = s.rdata := rfl
@[simp] theorem complete_message (s : State) : (complete s).message = s.message := rfl
@[simp] theorem complete_delivered (s : State) : (complete s).delivered = s.delivered := rfl
@[simp] theorem complete_draws (s : State) : (complete s).draws = s.draws := rfl

/-! ### acceptStart -/

@[simp] theorem acceptStart_cfg (s : State) : (acceptStart s).cfg = s.cfg := rfl
@[simp] theorem acceptStart_phase (s : State) : (acceptStart s).phase = if s.mode = .frame then .preamble else .payload := rfl
@[simp] theorem acceptStart_modeq (s : State) : (acceptStart s).modeq = s.mode := rfl
@[simp] theorem acceptStart_gpos (s : State) : (acceptStart s).gpos = 0 := rfl
@[simp] theorem acceptStart_nin (s : State) : (acceptStart s).nin = 0 := rfl
@[simp] theorem acceptStart_fill (s : State) : (acceptStart s).fill = 0 := rfl
@[simp] theorem acceptStart_buf (s : State) : (acceptStart s).buf = s.buf := rfl
@[simp] theorem acceptStart_h (s : State) : (acceptStart s).h = iv := rfl
@[simp] theorem acceptStart_ov (s : State) : (acceptStart s).ov = s.ov := rfl
@[simp] theorem acceptStart_od (s : State) : (acceptStart s).od = s.od := rfl
@[simp] theorem acceptStart_ol (s : State) : (acceptStart s).ol = s.ol := rfl
@[simp] theorem acceptStart_mode (s : State) : (acceptStart s).mode = s.mode := rfl
@[simp] theorem acceptStart_irqEn (s : State) : (acceptStart s).irqEn = s.irqEn := rfl
@[simp] theorem acceptStart_done (s : State) : (acceptStart s).done = false := rfl
@[simp] theorem acceptStart_err (s : State) : (acceptStart s).err = false := rfl
@[simp] theorem acceptStart_errcode (s : State) : (acceptStart s).errcode = .none := rfl
@[simp] theorem acceptStart_length (s : State) : (acceptStart s).length = s.length := rfl
@[simp] theorem acceptStart_digest (s : State) : (acceptStart s).digest = s.digest := rfl
@[simp] theorem acceptStart_events (s : State) : (acceptStart s).events = s.events := rfl
@[simp] theorem acceptStart_rdata (s : State) : (acceptStart s).rdata = s.rdata := rfl
@[simp] theorem acceptStart_message (s : State) : (acceptStart s).message = [] := rfl
@[simp] theorem acceptStart_delivered (s : State) : (acceptStart s).delivered = [] := rfl
@[simp] theorem acceptStart_draws (s : State) : (acceptStart s).draws = s.draws := rfl

/-! ### holdByte -/

@[simp] theorem holdByte_cfg (b : Byte) (l : Bool) (s : State) : (holdByte b l s).cfg = s.cfg := rfl
@[simp] theorem holdByte_phase (b : Byte) (l : Bool) (s : State) : (holdByte b l s).phase = s.phase := rfl
@[simp] theorem holdByte_modeq (b : Byte) (l : Bool) (s : State) : (holdByte b l s).modeq = s.modeq := rfl
@[simp] theorem holdByte_gpos (b : Byte) (l : Bool) (s : State) : (holdByte b l s).gpos = s.gpos := rfl
@[simp] theorem holdByte_nin (b : Byte) (l : Bool) (s : State) : (holdByte b l s).nin = s.nin := rfl
@[simp] theorem holdByte_fill (b : Byte) (l : Bool) (s : State) : (holdByte b l s).fill = s.fill := rfl
@[simp] theorem holdByte_buf (b : Byte) (l : Bool) (s : State) : (holdByte b l s).buf = s.buf := rfl
@[simp] theorem holdByte_h (b : Byte) (l : Bool) (s : State) : (holdByte b l s).h = s.h := rfl
@[simp] theorem holdByte_ov (b : Byte) (l : Bool) (s : State) : (holdByte b l s).ov = true := rfl
@[simp] theorem holdByte_od (b : Byte) (l : Bool) (s : State) : (holdByte b l s).od = b := rfl
@[simp] theorem holdByte_ol (b : Byte) (l : Bool) (s : State) : (holdByte b l s).ol = l := rfl
@[simp] theorem holdByte_mode (b : Byte) (l : Bool) (s : State) : (holdByte b l s).mode = s.mode := rfl
@[simp] theorem holdByte_irqEn (b : Byte) (l : Bool) (s : State) : (holdByte b l s).irqEn = s.irqEn := rfl
@[simp] theorem holdByte_done (b : Byte) (l : Bool) (s : State) : (holdByte b l s).done = s.done := rfl
@[simp] theorem holdByte_err (b : Byte) (l : Bool) (s : State) : (holdByte b l s).err = s.err := rfl
@[simp] theorem holdByte_errcode (b : Byte) (l : Bool) (s : State) : (holdByte b l s).errcode = s.errcode := rfl
@[simp] theorem holdByte_length (b : Byte) (l : Bool) (s : State) : (holdByte b l s).length = s.length := rfl
@[simp] theorem holdByte_digest (b : Byte) (l : Bool) (s : State) : (holdByte b l s).digest = s.digest := rfl
@[simp] theorem holdByte_events (b : Byte) (l : Bool) (s : State) : (holdByte b l s).events = s.events := rfl
@[simp] theorem holdByte_rdata (b : Byte) (l : Bool) (s : State) : (holdByte b l s).rdata = s.rdata := rfl
@[simp] theorem holdByte_message (b : Byte) (l : Bool) (s : State) : (holdByte b l s).message = s.message := rfl
@[simp] theorem holdByte_delivered (b : Byte) (l : Bool) (s : State) : (holdByte b l s).delivered = s.delivered := rfl
@[simp] theorem holdByte_draws (b : Byte) (l : Bool) (s : State) : (holdByte b l s).draws = s.draws := rfl

/-! ### deliverByte -/

@[simp] theorem deliverByte_cfg (s : State) : (deliverByte s).cfg = s.cfg := rfl
@[simp] theorem deliverByte_phase (s : State) : (deliverByte s).phase = s.phase := rfl
@[simp] theorem deliverByte_modeq (s : State) : (deliverByte s).modeq = s.modeq := rfl
@[simp] theorem deliverByte_gpos (s : State) : (deliverByte s).gpos = s.gpos := rfl
@[simp] theorem deliverByte_nin (s : State) : (deliverByte s).nin = s.nin := rfl
@[simp] theorem deliverByte_fill (s : State) : (deliverByte s).fill = s.fill := rfl
@[simp] theorem deliverByte_buf (s : State) : (deliverByte s).buf = s.buf := rfl
@[simp] theorem deliverByte_h (s : State) : (deliverByte s).h = s.h := rfl
@[simp] theorem deliverByte_ov (s : State) : (deliverByte s).ov = false := rfl
@[simp] theorem deliverByte_od (s : State) : (deliverByte s).od = s.od := rfl
@[simp] theorem deliverByte_ol (s : State) : (deliverByte s).ol = s.ol := rfl
@[simp] theorem deliverByte_mode (s : State) : (deliverByte s).mode = s.mode := rfl
@[simp] theorem deliverByte_irqEn (s : State) : (deliverByte s).irqEn = s.irqEn := rfl
@[simp] theorem deliverByte_done (s : State) : (deliverByte s).done = s.done := rfl
@[simp] theorem deliverByte_err (s : State) : (deliverByte s).err = s.err := rfl
@[simp] theorem deliverByte_errcode (s : State) : (deliverByte s).errcode = s.errcode := rfl
@[simp] theorem deliverByte_length (s : State) : (deliverByte s).length = s.length := rfl
@[simp] theorem deliverByte_digest (s : State) : (deliverByte s).digest = s.digest := rfl
@[simp] theorem deliverByte_events (s : State) : (deliverByte s).events = s.events := rfl
@[simp] theorem deliverByte_rdata (s : State) : (deliverByte s).rdata = s.rdata := rfl
@[simp] theorem deliverByte_message (s : State) : (deliverByte s).message = s.message := rfl
@[simp] theorem deliverByte_delivered (s : State) : (deliverByte s).delivered = s.delivered ++ [(s.od, s.ol)] := rfl
@[simp] theorem deliverByte_draws (s : State) : (deliverByte s).draws = s.draws := rfl

/-! ### The state after reset, in any configuration -/

@[simp] theorem resetFor_cfg (c : Config) : (State.resetFor c).cfg = c := rfl
@[simp] theorem resetFor_phase (c : Config) : (State.resetFor c).phase = .idle := rfl
@[simp] theorem resetFor_modeq (c : Config) : (State.resetFor c).modeq = .frame := rfl
@[simp] theorem resetFor_gpos (c : Config) : (State.resetFor c).gpos = 0 := rfl
@[simp] theorem resetFor_nin (c : Config) : (State.resetFor c).nin = 0 := rfl
@[simp] theorem resetFor_fill (c : Config) : (State.resetFor c).fill = 0 := rfl
@[simp] theorem resetFor_buf (c : Config) : (State.resetFor c).buf = [] := rfl
@[simp] theorem resetFor_h (c : Config) : (State.resetFor c).h = Hash.zero := rfl
@[simp] theorem resetFor_ov (c : Config) : (State.resetFor c).ov = false := rfl
@[simp] theorem resetFor_od (c : Config) : (State.resetFor c).od = 0 := rfl
@[simp] theorem resetFor_ol (c : Config) : (State.resetFor c).ol = false := rfl
@[simp] theorem resetFor_mode (c : Config) : (State.resetFor c).mode = .frame := rfl
@[simp] theorem resetFor_irqEn (c : Config) : (State.resetFor c).irqEn = false := rfl
@[simp] theorem resetFor_done (c : Config) : (State.resetFor c).done = false := rfl
@[simp] theorem resetFor_err (c : Config) : (State.resetFor c).err = false := rfl
@[simp] theorem resetFor_errcode (c : Config) : (State.resetFor c).errcode = .none := rfl
@[simp] theorem resetFor_length (c : Config) : (State.resetFor c).length = 0 := rfl
@[simp] theorem resetFor_digest (c : Config) : (State.resetFor c).digest = Hash.zero := rfl
@[simp] theorem resetFor_events (c : Config) : (State.resetFor c).events = [] := rfl
@[simp] theorem resetFor_rdata (c : Config) : (State.resetFor c).rdata = none := rfl
@[simp] theorem resetFor_message (c : Config) : (State.resetFor c).message = [] := rfl
@[simp] theorem resetFor_delivered (c : Config) : (State.resetFor c).delivered = [] := rfl
@[simp] theorem resetFor_draws (c : Config) : (State.resetFor c).draws = 0 := rfl

theorem reset_eq : State.reset = State.resetFor Config.asBuilt := rfl

/-! ### Views read only their own fields -/

theorem busy_congr {s t : State} (hphase : s.phase = t.phase) : busy s = busy t := by
  simp only [busy, hphase]

theorem inReady_congr {s t : State} (hphase : s.phase = t.phase) (hnin : s.nin = t.nin) (hlength : s.length = t.length) (hfill : s.fill = t.fill) (hmodeq : s.modeq = t.modeq) (hov : s.ov = t.ov) : inReady s = inReady t := by
  simp only [inReady, hphase, hnin, hlength, hfill, hmodeq, hov]

theorem outEnabled_congr {s t : State} (hov : s.ov = t.ov) : outEnabled s = outEnabled t := by
  simp only [outEnabled, hov]

theorem genEnabled_congr {s t : State} (hov : s.ov = t.ov) (hphase : s.phase = t.phase) (hgpos : s.gpos = t.gpos) : genEnabled s = genEnabled t := by
  simp only [genEnabled, hov, hphase, hgpos]

theorem compressEnabled_congr {s t : State} (hphase : s.phase = t.phase) (hfill : s.fill = t.fill) : compressEnabled s = compressEnabled t := by
  simp only [compressEnabled, hphase, hfill]

theorem finalizeEnabled_congr {s t : State} (hphase : s.phase = t.phase) (hnin : s.nin = t.nin) (hlength : s.length = t.length) (hfill : s.fill = t.fill) : finalizeEnabled s = finalizeEnabled t := by
  simp only [finalizeEnabled, hphase, hnin, hlength, hfill]

theorem irq_congr {s t : State} (hirqEn : s.irqEn = t.irqEn) (hdone : s.done = t.done) (herr : s.err = t.err) : irq s = irq t := by
  simp only [irq, hirqEn, hdone, herr]

end Sys2Proof.Machine
end

