-- ==== Sys2Proof/Laws/Ops.lean ====
section
/-! SUPPORT. One lemma for each shared operation: everything it can do. -/

namespace Sys2Proof.Machine

theorem andThen_eq_next {o : Outcome} {f : State → Outcome} {t : State} :
    andThen o f = .next t ↔ ∃ s, o = .next s ∧ f s = .next t := by
  cases o <;> simp [andThen]

@[simp] theorem andThen_next (s : State) (f : State → Outcome) : andThen (.next s) f = f s := rfl
@[simp] theorem andThen_fault (r : Fault) (f : State → Outcome) : andThen (.fault r) f = .fault r := rfl
@[simp] theorem andThen_refused (r : Refusal) (f : State → Outcome) : andThen (.refused r) f = .refused r := rfl

theorem busy_iff (s : State) : busy s = true ↔ s.phase ≠ .idle := by simp [busy]

theorem busy_false_iff (s : State) : busy s = false ↔ s.phase = .idle := by simp [busy]

theorem inReady_iff (s : State) :
    inReady s = true ↔ s.phase = .payload ∧ s.nin < s.length ∧ s.fill < 64 ∧ (s.modeq = .digestOnly ∨ s.ov = false) := by
  simp [inReady, and_assoc]

theorem genEnabled_iff (s : State) :
    genEnabled s = true ↔
      s.ov = false ∧ (s.phase = .preamble ∨ s.phase = .length ∨ (s.phase = .digest ∧ s.gpos < 32)) := by
  simp [genEnabled, or_assoc]

theorem compressEnabled_iff (s : State) : compressEnabled s = true ↔ s.phase = .payload ∧ s.fill = 64 := by
  simp [compressEnabled]

theorem finalizeEnabled_iff (s : State) :
    finalizeEnabled s = true ↔ s.phase = .payload ∧ s.nin = s.length ∧ s.fill < 64 := by
  simp [finalizeEnabled, and_assoc]

/-- ABORT while busy: the fields it writes (R187). -/
theorem abortOp_of_busy {s : State} (h : busy s = true) :
    abortOp s = { s with phase := .idle, ov := false, ol := false, err := true, errcode := .aborted } := by
  simp [abortOp, h, raiseError]

/-- ABORT while idle does nothing (R187). -/
theorem abortOp_of_idle {s : State} (h : busy s = false) : abortOp s = s := by simp [abortOp, h]

/-- START has three cases (R188). -/
theorem startOp_cases (s : State) :
    (busy s = true ∧ startOp s = raiseError .busyStart s) ∨
    (busy s = false ∧ s.cfg.shaPresent = false ∧ startOp s = raiseError .digestUnavailable (clearDone s)) ∨
    (busy s = false ∧ s.cfg.shaPresent = true ∧ startOp s = acceptStart s) := by
  unfold startOp
  cases hb : busy s <;> cases hc : s.cfg.shaPresent <;> simp

/-- COMPRESS's and FINALIZE's compression of the buffer completes exactly where the whole buffer holds values. -/
theorem compressBuffer_eq_next {s t : State} :
    compressBuffer s = .next t ↔
      ∃ block, s.buf.readBytes 0 64 = some block ∧ t = { s with h := compressBlock s.h block } := by
  unfold compressBuffer compressInto
  cases h : s.buf.readBytes 0 64 <;> simp [eq_comm]

/-- FINALIZE's second compression, in both cases of R121. -/
theorem lengthBlock_eq (s : State) :
    lengthBlock s = { s with
      h := if s.fill.toNat ≤ 55 then s.h else compressBlock s.h (zeros 56 ++ bitLengthBytes s.length) } := by
  unfold lengthBlock compressInto
  split <;> rfl

/-- FINALIZE's end, field by field, in both modes (R121). -/
theorem publishDigest_eq (s : State) :
    publishDigest s = { s with
      fill := 0
      digest := s.h
      phase := if s.modeq = .frame then .digest else .idle
      gpos := if s.modeq = .frame then 0 else s.gpos
      done := if s.modeq = .frame then s.done else true } := by
  unfold publishDigest
  cases hm : s.modeq <;> simp [complete]

/-- GEN's advance, by the three cases it tests (R145). -/
theorem advanceGen_cases (s : State) :
    (s.phase = .preamble ∧ s.gpos + 1 = 8 ∧ advanceGen s = { s with phase := .length, gpos := 0 }) ∨
    (s.phase = .length ∧ s.gpos + 1 = 4 ∧ advanceGen s = { s with phase := .payload, gpos := 0 }) ∨
    (¬(s.phase = .preamble ∧ s.gpos + 1 = 8) ∧ ¬(s.phase = .length ∧ s.gpos + 1 = 4) ∧
      advanceGen s = { s with gpos := s.gpos + 1 }) := by
  unfold advanceGen
  by_cases h1 : s.phase = .preamble ∧ s.gpos + 1 = 8
  · left; exact ⟨h1.1, h1.2, if_pos h1⟩
  · by_cases h2 : s.phase = .length ∧ s.gpos + 1 = 4
    · right; left; exact ⟨h2.1, h2.2, (if_neg h1).trans (if_pos h2)⟩
    · right; right; exact ⟨h1, h2, (if_neg h1).trans (if_neg h2)⟩

end Sys2Proof.Machine
end

