-- ==== Sys2Proof/Laws/Cycle.lean ====
section
/-! SUPPORT. Lists of events run in order, and what each part of a clock cycle can do (spec/20_memory.md R72). -/

namespace Sys2Proof.Machine

@[simp] theorem andThen_next_self (o : Outcome) : andThen o (fun s => .next s) = o := by cases o <;> rfl

theorem andThen_assoc (o : Outcome) (f g : State → Outcome) :
    andThen (andThen o f) g = andThen o fun s => andThen (f s) g := by
  cases o <;> rfl

@[simp] theorem execAll_nil (s : State) : execAll [] s = .next s := rfl

theorem execAll_cons (i : Instr) (is : List Instr) (s : State) :
    execAll (i :: is) s = andThen (exec i s) (execAll is) := rfl

@[simp] theorem execAll_singleton (i : Instr) (s : State) : execAll [i] s = exec i s := andThen_next_self _

theorem execAll_append (is js : List Instr) (s : State) :
    execAll (is ++ js) s = andThen (execAll is s) (execAll js) := by
  induction is generalizing s with
  | nil => rfl
  | cons i is ih =>
    rw [List.cons_append, execAll_cons, execAll_cons, andThen_assoc]
    exact congrArg (andThen (exec i s)) (funext ih)

theorem occurs_eq (c : Bool) (i : Instr) (s : State) : occurs c i s = execAll (if c then [i] else []) s := by
  cases c <;> simp [occurs]

theorem commitAction_eq (a : Option EngineAction) (s : State) :
    commitAction a s = execAll (a.map EngineAction.event).toList s := by
  cases a <;> simp [commitAction]

/-- A commit is legal exactly where its action is enabled at the start of the cycle, and it changes nothing. -/
theorem commitLegal_eq_next {a : Option EngineAction} {s t : State} :
    commitLegal a s = .next t ↔ t = s ∧ ∀ e, a = some e → enabled e.event s = true := by
  unfold commitLegal
  cases a with
  | none => simp [eq_comm (a := s)]
  | some e => cases h : enabled e.event s <;> simp [h, eq_comm (a := s)]

theorem cycleEvents_of_reset {p : CycleIn} (h : p.rstN = false) (s : State) : cycleEvents p s = [.reset] := by
  simp [cycleEvents, h]

theorem outDataPort_of_running {p : CycleIn} (h : p.rstN = true) (s : State) : outDataPort p s = s.od := by
  simp [outDataPort, h]

end Sys2Proof.Machine
end

