-- ==== Sys2Proof/Laws/Encoding.lean ====
section
/-! SUPPORT. Small facts of the event word: its bits, its fields, and masks taken field by field. -/

namespace Sys2Proof

/-- Bit `i` of an event word is a bit of one of its fields (R80). -/
theorem eventWord_getLsbD (k : BitVec 3) (a : CsrIndex) (d : Word) (i : Nat) :
    (eventWord k a d).getLsbD i =
      if i < 32 then d.getLsbD i else if i < 38 then a.getLsbD (i - 32) else k.getLsbD (i - 38) := by
  have e : (eventWord k a d).getLsbD i = ((k ++ a) ++ d).getLsbD i := rfl
  rw [e, BitVec.getLsbD_append]
  by_cases h : i < 32
  · rw [if_pos h, if_pos h]
  · rw [if_neg h, if_neg h, BitVec.getLsbD_append]
    by_cases h2 : i < 38
    · rw [if_pos (by omega), if_pos h2]
    · rw [if_neg (by omega), if_neg h2, Nat.sub_sub]

theorem kindOf_eventWord (k : BitVec 3) (a : CsrIndex) (d : Word) : kindOf (eventWord k a d) = k := by
  apply BitVec.eq_of_getLsbD_eq
  intro i hi
  rw [kindOf, BitVec.getLsbD_extractLsb', eventWord_getLsbD, if_neg (by omega), if_neg (by omega),
    Nat.add_sub_cancel_left]
  simp [hi]

theorem addrOf_eventWord (k : BitVec 3) (a : CsrIndex) (d : Word) : addrOf (eventWord k a d) = a := by
  apply BitVec.eq_of_getLsbD_eq
  intro i hi
  rw [addrOf, BitVec.getLsbD_extractLsb', eventWord_getLsbD, if_neg (by omega), if_pos (by omega),
    Nat.add_sub_cancel_left]
  simp [hi]

theorem dataOf_eventWord (k : BitVec 3) (a : CsrIndex) (d : Word) : dataOf (eventWord k a d) = d := by
  apply BitVec.eq_of_getLsbD_eq
  intro i hi
  rw [dataOf, BitVec.getLsbD_extractLsb', eventWord_getLsbD, if_pos (by omega)]
  simp [hi]

/-- A word is its three fields (R80). -/
theorem eventWord_fields (w : EventWord) : eventWord (kindOf w) (addrOf w) (dataOf w) = w := by
  apply BitVec.eq_of_getLsbD_eq
  intro i hi
  rw [eventWord_getLsbD, kindOf, addrOf, dataOf]
  simp only [BitVec.getLsbD_extractLsb']
  split
  · next h => simp [h]
  · split
    · rw [show 32 + (i - 32) = i by omega]; simp only [decide_eq_true (show i - 32 < 6 by omega), Bool.true_and]
    · rw [show 38 + (i - 38) = i by omega]; simp only [decide_eq_true (show i - 38 < 3 by omega), Bool.true_and]

/-- A mask acts field by field. -/
theorem eventWord_and (k mk : BitVec 3) (a ma : CsrIndex) (d md : Word) :
    eventWord k a d &&& eventWord mk ma md = eventWord (k &&& mk) (a &&& ma) (d &&& md) := by
  apply BitVec.eq_of_getLsbD_eq
  intro i hi
  simp only [BitVec.getLsbD_and, eventWord_getLsbD]
  split
  · rfl
  · split <;> rfl

/-- A row selects a word exactly when its masked fields are the row's. -/
theorem selects_iff (r : OpcodeRow) (w : EventWord) :
    r.selects w = true ↔ kindOf w &&& kindOf r.mask = kindOf r.bits ∧ addrOf w &&& addrOf r.mask = addrOf r.bits ∧
      dataOf w &&& dataOf r.mask = dataOf r.bits := by
  have h : w &&& r.mask = eventWord (kindOf w &&& kindOf r.mask) (addrOf w &&& addrOf r.mask)
      (dataOf w &&& dataOf r.mask) := by
    rw [← eventWord_and, eventWord_fields, eventWord_fields]
  rw [OpcodeRow.selects, decide_eq_true_eq, h]
  constructor
  · intro e
    rw [← e, kindOf_eventWord, addrOf_eventWord, dataOf_eventWord]
    exact ⟨rfl, rfl, rfl⟩
  · rintro ⟨h1, h2, h3⟩
    rw [h1, h2, h3, eventWord_fields]

/-- A row selects an encoded word whose masked fields are the row's. -/
theorem selects_of_fields {r : OpcodeRow} {k : BitVec 3} {a : CsrIndex} {d : Word}
    (hk : k &&& kindOf r.mask = kindOf r.bits) (ha : a &&& addrOf r.mask = addrOf r.bits)
    (hd : d &&& dataOf r.mask = dataOf r.bits) : r.selects (eventWord k a d) = true := by
  rw [selects_iff, kindOf_eventWord, addrOf_eventWord, dataOf_eventWord]
  exact ⟨hk, ha, hd⟩

theorem rsvd_and (a : CsrIndex) (h : isRsvdIndex a = true) : a &&& 0x3E#6 = 6#6 := by revert a; decide

theorem unmappedLow_and (a : CsrIndex) (h : isUnmappedLowIndex a = true) : a &&& 0x30#6 = 0x10#6 := by
  revert a; decide

theorem unmappedHigh_and (a : CsrIndex) (h : isUnmappedHighIndex a = true) : a &&& 0x20#6 = 0x20#6 := by
  revert a; decide

theorem digestIndex_and (k : BitVec 3) : digestIndex k &&& 0x38#6 = 8#6 := by revert k; decide

theorem byte_and_high (b : Byte) : b.setWidth 32 &&& 0xFFFFFF00#32 = 0#32 := by
  apply BitVec.eq_of_getLsbD_eq
  intro i hi
  rw [BitVec.getLsbD_and, BitVec.getLsbD_setWidth]
  by_cases h : i < 8
  · have : (0xFFFFFF00#32).getLsbD i = false := by
      revert i; decide
    simp [this]
  · rw [BitVec.getLsbD_of_ge b i (by omega)]; simp

end Sys2Proof
end

