-- ==== Sys2Proof/Laws/Exec.lean ====
section
/-! SUPPORT. What each event can do: one inversion lemma an event, and one for all events that need no enabling. -/

namespace Sys2Proof.Machine

theorem execInXfer_eq_next {b : Byte} {s t : State} :
    exec (.inXfer b) s = .next t ↔ inReady s = true ∧
      t = { s with
        buf := s.buf.write s.fill.toNat b
        fill := s.fill + 1
        nin := s.nin + 1
        message := s.message ++ [b]
        od := if s.modeq = .frame then b else s.od
        ov := if s.modeq = .frame then true else s.ov
        ol := if s.modeq = .frame then false else s.ol } := by
  simp only [exec, execInXfer]
  cases h : inReady s
  · simp
  · cases hm : s.modeq <;> simp [holdByte, eq_comm]

theorem execOutXfer_eq_next {s t : State} :
    exec .outXfer s = .next t ↔ s.ov = true ∧
      t = { s with
        delivered := s.delivered ++ [(s.od, s.ol)]
        ov := false
        ol := false
        phase := if s.ol then .idle else s.phase
        done := if s.ol then true else s.done } := by
  simp only [exec, execOutXfer, outEnabled]
  obtain ⟨cfg, phase, modeq, gpos, nin, fill, buf, h, ov, od, ol⟩ := s
  cases ov <;> cases ol <;> simp [complete, deliverByte, eq_comm]

theorem execGen_eq_next {s t : State} :
    exec .gen s = .next t ↔ genEnabled s = true ∧ ∃ b, generatedByte s = some b ∧
      t = advanceGen (holdByte b (decide (s.phase = .digest) && decide (s.gpos = 31)) s) := by
  simp only [exec, execGen]
  cases h : genEnabled s
  · simp
  · cases hb : generatedByte s <;> simp [eq_comm]

theorem execCompress_eq_next {s t : State} :
    exec .compress s = .next t ↔ compressEnabled s = true ∧
      ∃ block, s.buf.readBytes 0 64 = some block ∧ t = { s with h := compressBlock s.h block, fill := 0 } := by
  simp only [exec, execCompress]
  cases h : compressEnabled s
  · simp
  · simp only [if_true, true_and, andThen_eq_next, compressBuffer_eq_next]
    constructor
    · rintro ⟨u, ⟨block, h1, rfl⟩, h2⟩
      exact ⟨block, h1, (Host.Outcome.next.inj h2).symm⟩
    · rintro ⟨block, h1, rfl⟩
      exact ⟨_, ⟨block, h1, rfl⟩, rfl⟩

/-- The hash value FINALIZE leaves, from the padded buffer block (R121). -/
def finalHash (block : List Byte) (s : State) : Hash :=
  if s.fill.toNat ≤ 55 then compressBlock s.h block
  else compressBlock (compressBlock s.h block) (zeros 56 ++ bitLengthBytes s.length)

theorem padBuffer_eq (s : State) : padBuffer s = { s with buf := (padBuffer s).buf } := by
  simp only [padBuffer]
  split <;> rfl

@[simp] theorem padBuffer_h (s : State) : (padBuffer s).h = s.h := by rw [padBuffer_eq]
@[simp] theorem padBuffer_fill (s : State) : (padBuffer s).fill = s.fill := by rw [padBuffer_eq]
@[simp] theorem padBuffer_length (s : State) : (padBuffer s).length = s.length := by rw [padBuffer_eq]

theorem execFinalize_eq_next {s t : State} :
    exec .finalize s = .next t ↔ finalizeEnabled s = true ∧
      ∃ block, (padBuffer s).buf.readBytes 0 64 = some block ∧
        t = { s with
          buf := (padBuffer s).buf
          h := finalHash block s
          fill := 0
          digest := finalHash block s
          phase := if s.modeq = .frame then .digest else .idle
          gpos := if s.modeq = .frame then 0 else s.gpos
          done := if s.modeq = .frame then s.done else true } := by
  have key (block : List Byte) :
      publishDigest (lengthBlock { padBuffer s with h := compressBlock (padBuffer s).h block }) =
        { s with
          buf := (padBuffer s).buf
          h := finalHash block s
          fill := 0
          digest := finalHash block s
          phase := if s.modeq = .frame then .digest else .idle
          gpos := if s.modeq = .frame then 0 else s.gpos
          done := if s.modeq = .frame then s.done else true } := by
    rw [publishDigest_eq, lengthBlock_eq, padBuffer_eq s]
    rfl
  simp only [exec, execFinalize]
  cases h : finalizeEnabled s
  · simp
  · simp only [if_true, true_and, andThen_eq_next, compressBuffer_eq_next]
    constructor
    · rintro ⟨u, ⟨block, h1, rfl⟩, h2⟩
      exact ⟨block, h1, by rw [← key, ← Host.Outcome.next.inj h2]⟩
    · rintro ⟨block, h1, rfl⟩
      exact ⟨_, ⟨block, h1, rfl⟩, by rw [key]⟩

/-- A CSR read only records the value it returns (R171). -/
theorem exec_of_isCsrRead {i : Instr} (h : isCsrRead i = true) (s : State) :
    ∃ v, exec i s = .next (returnValue v s) := by
  cases i <;> first | exact absurd h Bool.false_ne_true | exact ⟨_, rfl⟩

/-- What a CTRL write does (R186): the state with the new MODE and IRQ_EN, after ABORT, START or neither. -/
theorem exec_csrWrCtrl (v : Word) (s : State) :
    exec (.csrWrCtrl v) s = .next
      (if ctrlAbort v then abortOp { s with mode := ctrlMode v, irqEn := ctrlIrqEn v }
       else if ctrlStart v then startOp { s with mode := ctrlMode v, irqEn := ctrlIrqEn v }
       else { s with mode := ctrlMode v, irqEn := ctrlIrqEn v }) := rfl

/-- What a STATUS write does (R189), field by field. -/
theorem exec_csrWrStatus (v : Word) (s : State) :
    exec (.csrWrStatus v) s = .next
      { s with
        done := if statusClearDone v then false else s.done
        err := if statusClearErr v then false else s.err
        errcode := if statusClearErr v then .none else s.errcode } := by
  simp only [exec, execCsrWrStatus]
  cases statusClearDone v <;> cases statusClearErr v <;> rfl

/-- Every event's effect, once: if `exec i s` answers `next t`, one of these cases holds. -/
theorem exec_cases {i : Instr} {s t : State} (h : exec i s = .next t) :
    (isCsrRead i = true ∧ ∃ v, t = returnValue v s) ∨
    (t = s) ∨
    (∃ v, i = .csrWrCtrl v ∧ ctrlAbort v = true ∧
      t = abortOp { s with mode := ctrlMode v, irqEn := ctrlIrqEn v }) ∨
    (∃ v, i = .csrWrCtrl v ∧ ctrlAbort v = false ∧ ctrlStart v = true ∧
      t = startOp { s with mode := ctrlMode v, irqEn := ctrlIrqEn v }) ∨
    (∃ v, i = .csrWrCtrl v ∧ ctrlAbort v = false ∧ ctrlStart v = false ∧
      t = { s with mode := ctrlMode v, irqEn := ctrlIrqEn v }) ∨
    (∃ v, i = .csrWrStatus v ∧
      t = { s with
        done := if statusClearDone v then false else s.done
        err := if statusClearErr v then false else s.err
        errcode := if statusClearErr v then .none else s.errcode }) ∨
    (∃ v, i = .csrWrLength v ∧ busy s = false ∧ t = { s with length := v }) ∨
    (∃ b, i = .inXfer b) ∨ i = .outXfer ∨ i = .gen ∨ i = .compress ∨ i = .finalize ∨
    (i = .reset ∧ t = { State.resetFor s.cfg with events := s.events, draws := s.draws }) := by
  cases i with
  | csrWrCtrl v =>
    rw [exec_csrWrCtrl] at h
    cases ha : ctrlAbort v <;> cases hs : ctrlStart v <;> simp_all
  | csrWrStatus v =>
    rw [exec_csrWrStatus] at h
    simp only [Host.Outcome.next.injEq] at h
    exact .inr (.inr (.inr (.inr (.inr (.inl ⟨v, rfl, h.symm⟩)))))
  | csrWrLength v =>
    simp only [exec, execCsrWrLength, Host.Outcome.next.injEq] at h
    cases hb : busy s <;> simp_all
  | csrWrId | csrWrCount | csrWrCaps | csrWrRsvd | csrWrDigest | csrWrUnmappedLow | csrWrUnmappedHigh =>
    exact .inr (.inl (Host.Outcome.next.inj h).symm)
  | csrRdId | csrRdCtrl | csrRdStatus | csrRdLength | csrRdCount | csrRdCaps | csrRdRsvd | csrRdDigest
  | csrRdUnmappedLow | csrRdUnmappedHigh =>
    exact .inl ⟨rfl, _, (Host.Outcome.next.inj h).symm⟩
  | reset => simp [← Host.Outcome.next.inj h]
  | inXfer | outXfer | gen | compress | finalize => simp

end Sys2Proof.Machine
end

