-- ==== Sys2Proof/Laws/PerInstr.lean ====
section
/-! SUPPORT. Per-instruction facts of the encoding: the word an event is encoded to is selected by its own row of the
opcode map (spec/30_encoding.md R87). -/

namespace Sys2Proof.Laws.RowSelect

/-- The row of the opcode map an event belongs to selects its encoded word. -/
def Statement (i : Instr) : Prop := i.wf = true → ∃ r, opcodeTable[i.row]? = some r ∧ r.selects (encode i) = true

theorem csrRdId : Statement (.csrRdId) := fun _ => ⟨_, rfl, rfl⟩

theorem csrRdCtrl : Statement (.csrRdCtrl) := fun _ => ⟨_, rfl, rfl⟩

theorem csrRdStatus : Statement (.csrRdStatus) := fun _ => ⟨_, rfl, rfl⟩

theorem csrRdLength : Statement (.csrRdLength) := fun _ => ⟨_, rfl, rfl⟩

theorem csrRdCount : Statement (.csrRdCount) := fun _ => ⟨_, rfl, rfl⟩

theorem csrRdCaps : Statement (.csrRdCaps) := fun _ => ⟨_, rfl, rfl⟩

theorem csrRdRsvd (a : CsrIndex) : Statement (.csrRdRsvd a) := fun h =>
  ⟨_, rfl, selects_of_fields (by decide) (rsvd_and a h) (by decide)⟩

theorem csrRdDigest (k : BitVec 3) : Statement (.csrRdDigest k) := fun _ =>
  ⟨_, rfl, selects_of_fields (by decide) (digestIndex_and k) (by decide)⟩

theorem csrRdUnmappedLow (a : CsrIndex) : Statement (.csrRdUnmappedLow a) := fun h =>
  ⟨_, rfl, selects_of_fields (by decide) (unmappedLow_and a h) (by decide)⟩

theorem csrRdUnmappedHigh (a : CsrIndex) : Statement (.csrRdUnmappedHigh a) := fun h =>
  ⟨_, rfl, selects_of_fields (by decide) (unmappedHigh_and a h) (by decide)⟩

theorem csrWrId (v : Word) : Statement (.csrWrId v) := fun _ =>
  ⟨_, rfl, selects_of_fields (by decide) (by decide) BitVec.and_zero⟩

theorem csrWrCtrl (v : Word) : Statement (.csrWrCtrl v) := fun _ =>
  ⟨_, rfl, selects_of_fields (by decide) (by decide) BitVec.and_zero⟩

theorem csrWrStatus (v : Word) : Statement (.csrWrStatus v) := fun _ =>
  ⟨_, rfl, selects_of_fields (by decide) (by decide) BitVec.and_zero⟩

theorem csrWrLength (v : Word) : Statement (.csrWrLength v) := fun _ =>
  ⟨_, rfl, selects_of_fields (by decide) (by decide) BitVec.and_zero⟩

theorem csrWrCount (v : Word) : Statement (.csrWrCount v) := fun _ =>
  ⟨_, rfl, selects_of_fields (by decide) (by decide) BitVec.and_zero⟩

theorem csrWrCaps (v : Word) : Statement (.csrWrCaps v) := fun _ =>
  ⟨_, rfl, selects_of_fields (by decide) (by decide) BitVec.and_zero⟩

theorem csrWrRsvd (a : CsrIndex) (v : Word) : Statement (.csrWrRsvd a v) := fun h =>
  ⟨_, rfl, selects_of_fields (by decide) (rsvd_and a h) BitVec.and_zero⟩

theorem csrWrDigest (k : BitVec 3) (v : Word) : Statement (.csrWrDigest k v) := fun _ =>
  ⟨_, rfl, selects_of_fields (by decide) (digestIndex_and k) BitVec.and_zero⟩

theorem csrWrUnmappedLow (a : CsrIndex) (v : Word) : Statement (.csrWrUnmappedLow a v) := fun h =>
  ⟨_, rfl, selects_of_fields (by decide) (unmappedLow_and a h) BitVec.and_zero⟩

theorem csrWrUnmappedHigh (a : CsrIndex) (v : Word) : Statement (.csrWrUnmappedHigh a v) := fun h =>
  ⟨_, rfl, selects_of_fields (by decide) (unmappedHigh_and a h) BitVec.and_zero⟩

theorem inXfer (b : Byte) : Statement (.inXfer b) := fun _ =>
  ⟨_, rfl, selects_of_fields (by decide) (by decide) (byte_and_high b)⟩

theorem outXfer : Statement (.outXfer) := fun _ => ⟨_, rfl, rfl⟩

theorem gen : Statement (.gen) := fun _ => ⟨_, rfl, rfl⟩

theorem compress : Statement (.compress) := fun _ => ⟨_, rfl, rfl⟩

theorem finalize : Statement (.finalize) := fun _ => ⟨_, rfl, rfl⟩

theorem reset : Statement (.reset) := fun _ => ⟨_, rfl, rfl⟩

end Sys2Proof.Laws.RowSelect
end

