-- ==== Sys2Proof/Laws/Step.lean ====
section
/-! SUPPORT. What one step can do, once: it runs the oldest pending event, or the engine acts, or nothing happens. -/

namespace Sys2Proof.Machine

theorem runWord_eq_next {w : EventWord} {s t : State} :
    runWord w s = .next t ↔ ∃ i, decode w = .ok i ∧ exec i s = .next t := by
  unfold runWord
  cases decode w <;> simp

theorem engineChoice_enabled {s : State} {a : EngineAction} (h : engineChoice s = some a) :
    enabled a.event s = true := by
  unfold engineChoice at h
  split at h
  · next e => cases h; exact e
  · split at h
    · next e => cases h; exact e
    · split at h
      · next e => cases h; exact e
      · cases h

/-- Every step to a next state is one event of one agent, or leaves the state as it is (R70). -/
theorem step_cases {s t : State} (h : step s = .next t) :
    (∃ w rest i, s.events = w :: rest ∧ decode w = .ok i ∧ exec i { s with events := rest } = .next t) ∨
    (s.events = [] ∧ ∃ a : EngineAction, enabled a.event s = true ∧ exec a.event s = .next t) ∨
    (s.events = [] ∧ t = s) := by
  unfold step nextEvent at h
  cases he : s.events with
  | nil =>
    simp only [he, engineStep] at h
    cases hc : engineChoice s with
    | none => simp only [hc, Host.Outcome.next.injEq] at h; exact .inr (.inr ⟨rfl, h.symm⟩)
    | some a => simp only [hc] at h; exact .inr (.inl ⟨rfl, a, engineChoice_enabled hc, h⟩)
  | cons w rest =>
    simp only [he, runWord_eq_next] at h
    obtain ⟨i, hd, hx⟩ := h
    exact .inl ⟨w, rest, i, rfl, hd, hx⟩

end Sys2Proof.Machine
end

