-- ==== Sys2Proof/Machine/Assembler.lean ====
section
/-! DEFINITION. The text form of event traces (spec/30_encoding.md R88, R89): one event a line, `;` starts a comment.
Text is a list of characters, so that a line's reading can be evaluated. What R88 does not fix is in log 18. -/

namespace Sys2Proof.Machine

/-- A recorded result: `-> value` after a read, `-> byte` or `-> byte last` after `out` (R88). -/
inductive TraceResult where
  | value (v : Word)
  | byte (b : Byte) (last : Bool)
deriving DecidableEq, Repr

/-- One line of a trace: its events and the recorded result, if any. A comment line has no event. -/
structure TraceLine where
  events : List Instr
  result : Option TraceResult
deriving DecidableEq, Repr

/-- The line up to its comment. -/
def dropComment : List Char → List Char
  | [] => []
  | c :: rest => if c = ';' then [] else c :: dropComment rest

/-- The words of a line: split at blanks, a comma being a word of its own. `cur` is the word so far, reversed. -/
def words : List Char → List Char → List (List Char)
  | [], cur => if cur = [] then [] else [cur.reverse]
  | c :: rest, cur =>
    if c = ' ' ∨ c = '\t' ∨ c = '\r' ∨ c = '\n' then
      (if cur = [] then [] else [cur.reverse]) ++ words rest []
    else if c = ',' then
      (if cur = [] then [] else [cur.reverse]) ++ [','] :: words rest []
    else words rest (c :: cur)

/-- The value of a digit in base 10 or 16. -/
def digitValue (c : Char) : Option Nat :=
  let n := c.toNat
  if 48 ≤ n ∧ n ≤ 57 then some (n - 48)
  else if 97 ≤ n ∧ n ≤ 102 then some (n - 87)
  else if 65 ≤ n ∧ n ≤ 70 then some (n - 55)
  else none

/-- The digits of a literal in base `b`, continuing from `acc`. -/
def digits (b : Nat) : List Char → Nat → Option Nat
  | [], acc => some acc
  | c :: rest, acc =>
    match digitValue c with
    | some d => if d < b then digits b rest (b * acc + d) else none
    | none => none

/-- A literal, decimal or `0x` hexadecimal (R88), below `limit`. -/
def literal (limit : Nat) (text : List Char) : Option Nat :=
  let n :=
    match text with
    | '0' :: 'x' :: d :: rest => digits 16 (d :: rest) 0
    | d :: rest => digits 10 (d :: rest) 0
    | [] => none
  match n with
  | some k => if k < limit then some k else none
  | none => none

/-- A `u32` literal. -/
def wordLiteral (text : List Char) : Option Word := (literal (2 ^ 32) text).map (BitVec.ofNat 32)

/-- A `u8` literal. -/
def byteLiteral (text : List Char) : Option Byte := (literal 256 text).map (BitVec.ofNat 8)

/-- A register name: ID, CTRL, STATUS, LENGTH, COUNT, CAPS, DIGEST0 to DIGEST7, or `@n` with n in 0..63 (R88). -/
def registerIndex (text : List Char) : Option CsrIndex :=
  match text with
  | ['I', 'D'] => some 0
  | ['C', 'T', 'R', 'L'] => some 1
  | ['S', 'T', 'A', 'T', 'U', 'S'] => some 2
  | ['L', 'E', 'N', 'G', 'T', 'H'] => some 3
  | ['C', 'O', 'U', 'N', 'T'] => some 4
  | ['C', 'A', 'P', 'S'] => some 5
  | ['D', 'I', 'G', 'E', 'S', 'T', d] => (literal 8 [d]).map fun k => BitVec.ofNat 6 (8 + k)
  | '@' :: n => (literal 64 n).map (BitVec.ofNat 6)
  | _ => none

/-- The byte operands of `send b0, …, bn`, separated by commas (R89). -/
def byteList : List (List Char) → Option (List Byte)
  | [] => none
  | [b] => (byteLiteral b).map fun x => [x]
  | b :: c :: rest =>
    if c = [','] then
      match byteLiteral b, byteList rest with
      | some x, some xs => some (x :: xs)
      | _, _ => none
    else none

/-- One event without a result. -/
def oneEvent (i : Instr) : Option TraceLine := some { events := [i], result := none }

/-- A pseudo-instruction. -/
def pseudoLine (p : Pseudo) : Option TraceLine := some { events := p.expand, result := none }

/-- `csr_rd` and its operands. -/
def readLine (ops : List (List Char)) : Option TraceLine :=
  match ops with
  | [r] => (registerIndex r).map fun a => { events := [readEvent a], result := none }
  | [r, ['-', '>'], v] =>
    match registerIndex r, wordLiteral v with
    | some a, some x => some { events := [readEvent a], result := some (.value x) }
    | _, _ => none
  | _ => none

/-- `csr_wr` and its operands. -/
def writeLine (ops : List (List Char)) : Option TraceLine :=
  match ops with
  | [r, [','], v] =>
    match registerIndex r, wordLiteral v with
    | some a, some x => oneEvent (writeEvent a x)
    | _, _ => none
  | _ => none

/-- `out` and its recorded result. -/
def outLine (ops : List (List Char)) : Option TraceLine :=
  match ops with
  | [] => oneEvent .outXfer
  | [['-', '>'], b] =>
    (byteLiteral b).map fun x => { events := [.outXfer], result := some (.byte x false) }
  | [['-', '>'], b, ['l', 'a', 's', 't']] =>
    (byteLiteral b).map fun x => { events := [.outXfer], result := some (.byte x true) }
  | _ => none

/-- The line that a mnemonic and its operands spell (R88, R89). Names are case-sensitive. `wait_idle` is a loop and
spells no event (R89). -/
def lineOf (name : List Char) (ops : List (List Char)) : Option TraceLine :=
  if name = ['c', 's', 'r', '_', 'r', 'd'] then readLine ops
  else if name = ['c', 's', 'r', '_', 'w', 'r'] then writeLine ops
  else if name = ['o', 'u', 't'] then outLine ops
  else if name = ['i', 'n'] then
    match ops with
    | [b] => (byteLiteral b).bind fun x => oneEvent (.inXfer x)
    | _ => none
  else if name = ['s', 'e', 't', '_', 'l', 'e', 'n', 'g', 't', 'h'] then
    match ops with
    | [n] => (wordLiteral n).bind fun x => pseudoLine (.setLength x)
    | _ => none
  else if name = ['s', 'e', 'n', 'd'] then (byteList ops).bind fun bs => pseudoLine (.send bs)
  else if ops ≠ [] then none
  else if name = ['g', 'e', 'n'] then oneEvent .gen
  else if name = ['c', 'o', 'm', 'p', 'r', 'e', 's', 's'] then oneEvent .compress
  else if name = ['f', 'i', 'n', 'a', 'l', 'i', 'z', 'e'] then oneEvent .finalize
  else if name = ['r', 'e', 's', 'e', 't'] then oneEvent .reset
  else if name = ['s', 't', 'a', 'r', 't', '_', 'f', 'r', 'a', 'm', 'e'] then pseudoLine .startFrame
  else if name = ['s', 't', 'a', 'r', 't', '_', 'f', 'r', 'a', 'm', 'e', '_', 'i', 'r', 'q'] then
    pseudoLine .startFrameIrq
  else if name = ['s', 't', 'a', 'r', 't', '_', 'd', 'i', 'g', 'e', 's', 't'] then pseudoLine .startDigest
  else if name = ['s', 't', 'a', 'r', 't', '_', 'd', 'i', 'g', 'e', 's', 't', '_', 'i', 'r', 'q'] then
    pseudoLine .startDigestIrq
  else if name = ['a', 'b', 'o', 'r', 't'] then pseudoLine .abort
  else if name = ['c', 'l', 'e', 'a', 'r', '_', 's', 't', 'a', 't', 'u', 's'] then pseudoLine .clearStatus
  else none

/-- Assemble one line of a trace; `none` where it spells nothing R88 or R89 gives. -/
def assembleLine (line : List Char) : Option TraceLine :=
  match words (dropComment line) [] with
  | [] => some { events := [], result := none }
  | name :: ops => lineOf name ops

/-- The recorded result is the one the state after the line shows. -/
def TraceResult.agrees (r : TraceResult) (s : State) : Bool :=
  match r with
  | .value v => decide (s.rdata = some v)
  | .byte b last => decide (s.delivered.getLast? = some (b, last))

/-- Replay a line: its events, then its recorded result; `none` where the result differs. -/
def TraceLine.replay (l : TraceLine) (s : State) : Option Outcome :=
  match execAll l.events s, l.result with
  | .next t, some r => if r.agrees t then some (.next t) else none
  | o, _ => some o

end Sys2Proof.Machine
end

