-- ==== Sys2Proof/Tests/Slice0.lean ====
section
/-! SUPPORT. The model's own tests. Expected values come from spec/: the encoding of spec/30_encoding.md and the
vectors of spec/95_test_vectors.md (V<n>, P<n>). The last part shows, for each statement with hypotheses, concrete
states and operands that meet them. -/

set_option maxRecDepth 20000

namespace Sys2Proof.Tests

open Sys2Proof Sys2Proof.Machine

/-! ### Helpers -/

/-- The next state an outcome answers, if it does. -/
def nextState (o : Outcome) : Option State :=
  match o with
  | .next t => some t
  | _ => none

/-- A view of the state after one event; `none` where the event has no step. -/
def afterEvent {α : Type} (i : Instr) (s : State) (view : State → α) : Option α := (nextState (exec i s)).map view

/-- The state after a trace from reset; reset itself where the trace stops. -/
def afterTrace (is : List Instr) : State := (nextState (execAll is State.reset)).getD State.reset

/-- A written buffer: `n` bytes 0x41. -/
def filled (n : Nat) : Buffer := (List.range n).map fun i => (i, 0x41)

/-- A busy state in PAYLOAD. -/
def inPayload (m : Mode) (len nin : Word) (fill : BitVec 7) : State :=
  { State.reset with
    phase := .payload, modeq := m, length := len, nin := nin, fill := fill, buf := filled fill.toNat, h := iv }

/-- A busy state in PREAMBLE, LENGTH or DIGEST of a FRAME operation. -/
def inGenerated (p : Phase) (g : BitVec 6) (len : Word) : State :=
  { State.reset with phase := p, gpos := g, length := len, nin := if p = .digest then len else 0, h := iv }

/-- In DIGEST with the frame's last byte held (V41, row 4). -/
def lastByteHeld : State := { inGenerated .digest 32 3 with ov := true, od := 0x55, ol := true }

/-- In PAYLOAD of a FRAME operation with a byte held (V41, row 3). -/
def payloadByteHeld : State := { inPayload .frame 3 1 1 with ov := true, od := 0x01 }

/-- Idle after a completed operation, with an error on record (V51, rows 6 and 7). -/
def doneAndErr : State := { State.reset with done := true, err := true, errcode := .busyStart }

/-- The status word of a state, as software reads it. -/
def statusAfter (i : Instr) (s : State) : Option Word := afterEvent i s statusWord

theorem reachable_execAll {s t : State} : ∀ is : List Instr, Reachable s → execAll is s = .next t → Reachable t
  | [], hs, h => by
    simp only [execAll, Host.Outcome.next.injEq] at h
    exact h ▸ hs
  | i :: is, hs, h => by
    rw [execAll, andThen_eq_next] at h
    obtain ⟨u, hu, ht⟩ := h
    exact reachable_execAll is (.act i hs hu) ht

theorem afterTrace_reachable (is : List Instr) (h : (nextState (execAll is State.reset)).isSome = true) :
    Reachable (afterTrace is) := by
  cases hx : execAll is State.reset with
  | next t =>
    have : afterTrace is = t := by simp [afterTrace, hx, nextState]
    rw [this]
    exact reachable_execAll is (.reset Config.asBuilt) hx
  | fault r => simp [hx, nextState] at h
  | refused r => simp [hx, nextState] at h

theorem completes {i : Instr} {s : State} (h : (nextState (exec i s)).isSome = true) :
    exec i s = .next ((nextState (exec i s)).getD s) := by
  cases hx : exec i s with
  | next t => simp [nextState]
  | fault r => simp [hx, nextState] at h
  | refused r => simp [hx, nextState] at h

theorem next_of_view {α : Type} {o : Outcome} {view : State → α} {v : α}
    (h : (nextState o).map view = some v) : ∃ t, o = .next t ∧ view t = v := by
  cases o with
  | next t => exact ⟨t, rfl, by simpa [nextState] using h⟩
  | fault r => simp [nextState] at h
  | refused r => simp [nextState] at h

/-! ### WellFormed refuses an index outside its row (R87) -/

theorem test_illformed_rsvd_read_5 : Instr.wf (.csrRdRsvd 5) = false := by decide
theorem test_illformed_rsvd_read_8 : Instr.wf (.csrRdRsvd 8) = false := by decide
theorem test_illformed_rsvd_write_5 : Instr.wf (.csrWrRsvd 5 0) = false := by decide
theorem test_illformed_rsvd_write_8 : Instr.wf (.csrWrRsvd 8 0) = false := by decide
theorem test_illformed_low_read_15 : Instr.wf (.csrRdUnmappedLow 15) = false := by decide
theorem test_illformed_low_read_32 : Instr.wf (.csrRdUnmappedLow 32) = false := by decide
theorem test_illformed_low_write_15 : Instr.wf (.csrWrUnmappedLow 15 0) = false := by decide
theorem test_illformed_low_write_32 : Instr.wf (.csrWrUnmappedLow 32 0) = false := by decide
theorem test_illformed_high_read_31 : Instr.wf (.csrRdUnmappedHigh 31) = false := by decide
theorem test_illformed_high_write_31 : Instr.wf (.csrWrUnmappedHigh 31 0) = false := by decide
theorem test_wellformed_bounds :
    (Instr.csrRdRsvd 6).wf = true ∧ (Instr.csrRdRsvd 7).wf = true ∧ (Instr.csrWrUnmappedLow 16 0).wf = true ∧
    (Instr.csrWrUnmappedLow 31 0).wf = true ∧ (Instr.csrRdUnmappedHigh 32).wf = true ∧
    (Instr.csrRdUnmappedHigh 63).wf = true := by decide

/-! ### Decoding: words written out from R87, V50, V51 and the programs -/

theorem test_decode_rd_id : decode 0x00000000000 = .ok (.csrRdId) := by decide
theorem test_decode_rd_ctrl : decode 0x00100000000 = .ok (.csrRdCtrl) := by decide
theorem test_decode_rd_status : decode 0x00200000000 = .ok (.csrRdStatus) := by decide
theorem test_decode_rd_length : decode 0x00300000000 = .ok (.csrRdLength) := by decide
theorem test_decode_rd_count : decode 0x00400000000 = .ok (.csrRdCount) := by decide
theorem test_decode_rd_caps : decode 0x00500000000 = .ok (.csrRdCaps) := by decide
theorem test_decode_rd_rsvd : decode 0x00700000000 = .ok (.csrRdRsvd 7) := by decide
theorem test_decode_rd_digest : decode 0x00B00000000 = .ok (.csrRdDigest 3) := by decide
theorem test_decode_rd_low : decode 0x01000000000 = .ok (.csrRdUnmappedLow 16) := by decide
theorem test_decode_rd_high : decode 0x03F00000000 = .ok (.csrRdUnmappedHigh 63) := by decide
theorem test_decode_wr_id : decode 0x040FFFFFFFF = .ok (.csrWrId 0xFFFFFFFF) := by decide
theorem test_decode_wr_ctrl : decode 0x0410000000B = .ok (.csrWrCtrl 0xB) := by decide
theorem test_decode_wr_status : decode 0x042FFFFFFF9 = .ok (.csrWrStatus 0xFFFFFFF9) := by decide
theorem test_decode_wr_length : decode 0x04300000009 = .ok (.csrWrLength 9) := by decide
theorem test_decode_wr_count : decode 0x04400000007 = .ok (.csrWrCount 7) := by decide
theorem test_decode_wr_caps : decode 0x04500000000 = .ok (.csrWrCaps 0) := by decide
theorem test_decode_wr_rsvd : decode 0x047FFFFFFFF = .ok (.csrWrRsvd 7 0xFFFFFFFF) := by decide
theorem test_decode_wr_digest : decode 0x04800000000 = .ok (.csrWrDigest 0 0) := by decide
theorem test_decode_wr_low : decode 0x05000000001 = .ok (.csrWrUnmappedLow 16 1) := by decide
theorem test_decode_wr_high : decode 0x06800000001 = .ok (.csrWrUnmappedHigh 40 1) := by decide
theorem test_decode_in : decode 0x08000000061 = .ok (.inXfer 0x61) := by decide
theorem test_decode_out : decode 0x0C000000000 = .ok (.outXfer) := by decide
theorem test_decode_gen : decode 0x10000000000 = .ok (.gen) := by decide
theorem test_decode_compress : decode 0x14000000000 = .ok (.compress) := by decide
theorem test_decode_finalize : decode 0x18000000000 = .ok (.finalize) := by decide
theorem test_decode_reset : decode 0x1C000000000 = .ok (.reset) := by decide

/-- The same `in 0x61`, its 41 bits written out field by field: kind 010, addr 000000, 24 zeros, the byte. -/
theorem test_decode_in_bits :
    decode (0b010#3 ++ 0b000000#6 ++ 0b000000000000000000000000#24 ++ 0b01100001#8) = .ok (.inXfer 0x61) := by decide

/-- `csr_wr DIGEST5, 2`: kind 001, addr 001101. -/
theorem test_decode_digest_bits :
    decode (0b001#3 ++ 0b001101#6 ++ 2#32) = .ok (.csrWrDigest 5 2) := by decide

/-! Ill-formed words are rejected by name (R84). -/

theorem test_reject_read_data : decode 0x00000000001 = .error .readDataNonzero := by decide
theorem test_reject_in_addr : decode 0x08100000000 = .error .inAddrNonzero := by decide
theorem test_reject_in_data : decode 0x08000000100 = .error .inDataNonzero := by decide
theorem test_reject_out_addr : decode 0x0C100000000 = .error .addrNonzero := by decide
theorem test_reject_gen_data : decode 0x10000000001 = .error .dataNonzero := by decide
theorem test_reject_compress_addr : decode 0x16000000000 = .error .addrNonzero := by decide
theorem test_reject_finalize_data : decode 0x18080000000 = .error .dataNonzero := by decide
theorem test_reject_reset_data : decode 0x1C000000001 = .error .dataNonzero := by decide
theorem test_reject_42_bits : decodeNat 0x20000000000 = .error .tooWide := by decide

/-! ### SHA-256 (V10 to V24) -/

theorem test_logical_functions :
    ch 0x12345678 0x9abcdef0 0x0f0f0f0f = 0x1f3f5f77 ∧ maj 0x12345678 0x9abcdef0 0x0f0f0f0f = 0x1a3c5e78 ∧
    bigSigma0 0x12345678 = 0x66146474 ∧ bigSigma1 0x12345678 = 0x3561abda ∧
    smallSigma0 0x12345678 = 0xe7fce6ee ∧ smallSigma1 0x12345678 = 0xa1f78649 ∧
    rotr 0x12345678 31 = 0x2468acf0 ∧ shr 0x12345678 3 = 0x02468acf := by decide

theorem test_sigma_corners :
    smallSigma0 0xffffffff = 0x1fffffff ∧ smallSigma1 0xffffffff = 0x003fffff ∧
    bigSigma0 0x80000000 = 0x20040200 ∧ smallSigma1 0x00000001 = 0x0000a000 := by decide

theorem test_constants :
    roundConstants.length = 64 ∧ roundConstants.getD 15 0 = 0xc19bf174 ∧ roundConstants.getD 16 0 = 0xe49b69c1 ∧
    roundConstants.getD 63 0 = 0xc67178f2 := by decide

theorem test_pad_abc :
    pad [0x61, 0x62, 0x63] = [0x61, 0x62, 0x63, 0x80] ++ zeros 52 ++ [0, 0, 0, 0, 0, 0, 0, 0x18] := by decide

theorem test_schedule_abc :
    (schedule (pad [0x61, 0x62, 0x63])).drop 15 |>.take 3 |> (· = [0x00000018, 0x61626380, 0x000f0000]) := by decide

theorem test_schedule_abc_last :
    (schedule (pad [0x61, 0x62, 0x63])).drop 62 = [0xeeaba2cc, 0x12b1edeb] := by decide

theorem test_first_round_abc :
    round iv 0x428a2f98 0x61626380 =
      ⟨0x5d6aebcd, 0x6a09e667, 0xbb67ae85, 0x3c6ef372, 0xfa2a4622, 0x510e527f, 0x9b05688c, 0x1f83d9ab⟩ := by decide

theorem test_sha256_abc :
    sha256Hash [0x61, 0x62, 0x63] =
      ⟨0xba7816bf, 0x8f01cfea, 0x414140de, 0x5dae2223, 0xb00361a3, 0x96177a9c, 0xb410ff61, 0xf20015ad⟩ := by decide

/-- V1, the source's own constant. -/
theorem test_sha256_empty :
    sha256 [] =
      [0xe3, 0xb0, 0xc4, 0x42, 0x98, 0xfc, 0x1c, 0x14, 0x9a, 0xfb, 0xf4, 0xc8, 0x99, 0x6f, 0xb9, 0x24,
       0x27, 0xae, 0x41, 0xe4, 0x64, 0x9b, 0x93, 0x4c, 0xa4, 0x95, 0x99, 0x1b, 0x78, 0x52, 0xb8, 0x55] := by decide

/-- V23, n = 119: one full block, then one padded block with f = 55. -/
theorem test_sha256_zeros_119 :
    sha256Hash (zeros 119) =
      ⟨0xf616b0d5, 0x4e78571a, 0x9611f343, 0xc9f8e022, 0xe859e920, 0x381ab0e4, 0xd3da01e1, 0x93a7bd7e⟩ := by decide

/-- V30. -/
theorem test_length_fields :
    be32 0x80000000 = [0x80, 0, 0, 0] ∧ be32 0x12345678 = [0x12, 0x34, 0x56, 0x78] ∧
    bitLengthBytes 0x12345678 = [0, 0, 0, 0, 0x91, 0xa2, 0xb3, 0xc0] ∧
    bitLengthBytes 0xFFFFFFFF = [0, 0, 0, 7, 0xff, 0xff, 0xff, 0xf8] := by decide

/-- V31. -/
theorem test_frame_bytes :
    frameByte [1, 2, 3] 0 = some 0x6D ∧ frameByte [1, 2, 3] 7 = some 0x70 ∧ frameByte [1, 2, 3] 11 = some 3 ∧
    frameByte [1, 2, 3] 14 = some 3 ∧ frameByte [1, 2, 3] 15 = some 3 ∧ frameByte [1, 2, 3] 46 = some 0x81 ∧
    frameByte [1, 2, 3] 47 = none := by decide

/-! ### One event at a time -/

/-- V50: the reads after reset. -/
theorem test_reads_after_reset :
    afterEvent .csrRdId State.reset State.rdata = some (some 0x53323536) ∧
    afterEvent .csrRdCtrl State.reset State.rdata = some (some 0) ∧
    afterEvent .csrRdStatus State.reset State.rdata = some (some 0) ∧
    afterEvent .csrRdLength State.reset State.rdata = some (some 0) ∧
    afterEvent .csrRdCount State.reset State.rdata = some (some 0) ∧
    afterEvent .csrRdCaps State.reset State.rdata = some (some 1) ∧
    afterEvent (.csrRdRsvd 6) State.reset State.rdata = some (some 0) ∧
    afterEvent (.csrRdDigest 7) State.reset State.rdata = some (some 0) ∧
    afterEvent (.csrRdUnmappedLow 16) State.reset State.rdata = some (some 0) ∧
    afterEvent (.csrRdUnmappedHigh 63) State.reset State.rdata = some (some 0) := by decide

theorem test_caps_without_engine :
    afterEvent .csrRdCaps (State.resetFor Config.withoutSha) State.rdata = some (some 0) := by decide

/-- P5, event 5: CTRL reads MODE and IRQ_EN at bits 1 and 3. -/
theorem test_ctrl_read : ctrlWord { State.reset with mode := .digestOnly, irqEn := true } = 0xA := by decide

/-- V41, row 2: STATUS in DIGEST_ONLY with one of two bytes taken. -/
theorem test_in_digest_only :
    statusAfter (.inXfer 0x05) (inPayload .digestOnly 2 0 0) = some 0x00002B01 := by decide

/-- V41, row 1. -/
theorem test_in_frame :
    afterEvent (.inXfer 0x01) (inPayload .frame 3 0 0)
      (fun t => (t.buf.read 0, t.fill, t.nin, t.od, t.ov, t.ol)) = some (some 0x01, 1, 1, 0x01, true, false) := by decide

/-- V41, row 3. -/
theorem test_out :
    afterEvent .outXfer payloadByteHeld (fun t => (t.delivered, t.ov, t.phase)) =
      some ([(0x01, false)], false, .payload) := by decide

/-- V41, row 4. -/
theorem test_out_last :
    afterEvent .outXfer lastByteHeld (fun t => (t.delivered, t.ov, t.ol, t.phase, t.done)) =
      some ([(0x55, true)], false, false, .idle, true) := by decide

/-- V32, rows 1 and 2. -/
theorem test_gen_preamble :
    afterEvent .gen (inGenerated .preamble 0 3) (fun t => (t.od, t.ol, t.phase, t.gpos)) =
      some (0x6D, false, .preamble, 1) ∧
    afterEvent .gen (inGenerated .preamble 7 3) (fun t => (t.od, t.ol, t.phase, t.gpos)) =
      some (0x70, false, .length, 0) := by decide

/-- V32, rows 3, 4, 7 and 8. -/
theorem test_gen_length_and_digest :
    afterEvent .gen (inGenerated .length 0 0x12345678) (fun t => (t.od, t.ol, t.phase, t.gpos)) =
      some (0x12, false, .length, 1) ∧
    afterEvent .gen (inGenerated .length 3 0x12345678) (fun t => (t.od, t.ol, t.phase, t.gpos)) =
      some (0x78, false, .payload, 0) ∧
    afterEvent .gen { inGenerated .digest 6 3 with digest := ⟨0, 0x98fc1c14, 0, 0, 0, 0, 0, 0⟩ }
      (fun t => (t.od, t.ol, t.phase, t.gpos)) = some (0x1c, false, .digest, 7) ∧
    afterEvent .gen { inGenerated .digest 31 3 with digest := ⟨0, 0, 0, 0, 0, 0, 0, 0x7852b855⟩ }
      (fun t => (t.od, t.ol, t.phase, t.gpos)) = some (0x55, true, .digest, 32) := by decide

/-- V40 and V42, the rows that are not enabled. -/
theorem test_not_enabled :
    inReady payloadByteHeld = false ∧ inReady (inPayload .digestOnly 100 64 64) = false ∧
    inReady (inPayload .digestOnly 3 3 3) = false ∧ inReady (inPayload .frame 0 0 0) = false ∧
    finalizeEnabled (inPayload .frame 64 64 64) = false ∧ compressEnabled (inPayload .frame 64 64 0) = false ∧
    finalizeEnabled (inPayload .frame 3 2 2) = false ∧ genEnabled lastByteHeld = false := by decide

/-- The first padded block of V22: 56 message bytes "abcdbcde…nopq", then 0x80 and seven zeros. -/
def blockV22 : List Byte :=
  (List.range 14).flatMap (fun i => (List.range 4).map fun j => BitVec.ofNat 8 (0x61 + i + j)) ++ [0x80] ++ zeros 7

/-- V22: H after the first block. -/
theorem test_compress :
    afterEvent .compress { inPayload .digestOnly 65 64 64 with buf := Buffer.writeBytes [] 0 blockV22 }
      (fun t => (t.fill, t.phase, t.h)) =
    some (0, .payload, ⟨0x85e655d6, 0x417a1795, 0x3363376a, 0x624cde5c, 0x76e09589, 0xcac5f811, 0xcc4b32c1,
      0xf20e533a⟩) := by decide

/-- V20: "abc" in DIGEST_ONLY mode. -/
theorem test_finalize_abc :
    afterEvent .finalize { inPayload .digestOnly 3 3 3 with buf := [(0, 0x61), (1, 0x62), (2, 0x63)] }
      (fun t => (t.digest, t.phase, t.done)) =
    some (⟨0xba7816bf, 0x8f01cfea, 0x414140de, 0x5dae2223, 0xb00361a3, 0x96177a9c, 0xb410ff61, 0xf20015ad⟩,
      .idle, true) := by decide

/-- V23, n = 56: two blocks, from a buffer of 56 zero bytes, in FRAME mode. -/
theorem test_finalize_two_blocks :
    afterEvent .finalize { inPayload .frame 56 56 56 with buf := (List.range 56).map fun i => (i, 0) }
      (fun t => (t.digest, t.phase, t.gpos)) =
    some (⟨0xd4817aa5, 0x497628e7, 0xc77e6b60, 0x6107042b, 0xbba31308, 0x88c5f47a, 0x375e6179, 0xbe789fbb⟩,
      .digest, 0) := by decide

/-- V51: the CTRL writes. -/
theorem test_ctrl_writes :
    statusAfter (.csrWrCtrl 0xFFFFFFFF) State.reset = some 0 ∧
    afterEvent (.csrWrCtrl 0xFFFFFFFF) State.reset ctrlWord = some 0xA ∧
    statusAfter (.csrWrCtrl 0x3) State.reset = some 0x00000B01 ∧
    statusAfter (.csrWrCtrl 0x1) { State.reset with length := 3 } = some 0x00000101 := by decide

/-- V60: the errors. -/
theorem test_errors :
    statusAfter (.csrWrCtrl 0xB) (inGenerated .preamble 0 5) = some 0x00000135 ∧
    statusAfter (.csrWrCtrl 0xC) { inGenerated .preamble 2 5 with ov := true } = some 0x00000044 ∧
    statusAfter (.csrWrCtrl 0x9) (State.resetFor Config.withoutSha) = some 0x00000024 ∧
    afterEvent (.csrWrCtrl 0x0) { State.reset with done := true, irqEn := true } irq = some false := by decide

/-- V51: the W1C writes. -/
theorem test_status_writes :
    afterEvent (.csrWrStatus 0x2) doneAndErr (fun t => (t.done, t.err, t.errcode)) = some (false, true, .busyStart) ∧
    afterEvent (.csrWrStatus 0x4) doneAndErr (fun t => (t.done, t.err, t.errcode)) = some (true, false, .none) ∧
    afterEvent (.csrWrStatus 0xFFFFFFF9) doneAndErr id = some doneAndErr := by decide

/-- V51: LENGTH while idle and while busy. -/
theorem test_length_writes :
    afterEvent (.csrWrLength 0xFFFFFFFF) State.reset State.length = some 0xFFFFFFFF ∧
    afterEvent (.csrWrLength 9) (inGenerated .preamble 0 5) State.length = some 5 := by decide

/-- V51, last row, and R183: writes that change nothing. -/
theorem test_ignored_writes :
    afterEvent (.csrWrId 0xFFFFFFFF) doneAndErr id = some doneAndErr ∧
    afterEvent (.csrWrCount 7) doneAndErr id = some doneAndErr ∧
    afterEvent (.csrWrCaps 7) doneAndErr id = some doneAndErr ∧
    afterEvent (.csrWrRsvd 6 7) doneAndErr id = some doneAndErr ∧
    afterEvent (.csrWrDigest 3 7) doneAndErr id = some doneAndErr ∧
    afterEvent (.csrWrUnmappedLow 16 7) doneAndErr id = some doneAndErr ∧
    afterEvent (.csrWrUnmappedHigh 40 7) doneAndErr id = some doneAndErr := by decide

/-- V70. -/
theorem test_reset :
    afterEvent .reset { payloadByteHeld with digest := iv, irqEn := true, nin := 5, length := 9 } id =
      some State.reset := by decide

/-- Log 10: GEN with an index its phase does not have is the named fault. -/
theorem test_gen_out_of_range : exec .gen (inGenerated .preamble 8 3) = .fault .gposOutOfRange := rfl

/-- Log 6: reading a byte that holds no value is the named fault. -/
theorem test_unwritten_read :
    exec .compress { inPayload .frame 64 64 64 with buf := filled 63 } = .fault .bufferUnwritten := rfl

/-! ### Steps, traces and their text -/

/-- The first step after reset runs the word placed. -/
theorem test_step_runs_word :
    (nextState (step (State.reset.withFetchWord 48 0x04300000003))).map State.length = some 3 := by decide

theorem test_table_words :
    decodeTableWord 48 0x08000000061 = some (.inXfer 0x61) ∧ decodeTableWord 41 0x08000000100 = none := by decide

theorem test_assemble_read :
    assembleLine "csr_rd STATUS -> 0x00000802 ; done".toList =
      some { events := [.csrRdStatus], result := some (.value 0x802) } := by decide

theorem test_assemble_write :
    assembleLine "csr_wr @40, 1".toList = some { events := [.csrWrUnmappedHigh 40 1], result := none } := by decide

theorem test_assemble_send :
    assembleLine "send 0x01, 2".toList = some { events := [.inXfer 1, .inXfer 2], result := none } := by decide

theorem test_assemble_out_last :
    assembleLine "out -> 0x55 last".toList = some { events := [.outXfer], result := some (.byte 0x55 true) } := by decide

theorem test_assemble_refuses : assembleLine "CSR_RD ID".toList = none ∧ assembleLine "csr_rd @64".toList = none := by
  decide


/-! ### Witnesses: states and operands that meet the hypotheses of each statement -/

theorem inv_reset : Inv State.reset := by
  constructor
  · constructor <;> decide
  all_goals decide

theorem inv_preamble : Inv (inGenerated .preamble 7 3) := by
  constructor
  · constructor <;> decide
  all_goals decide

theorem inv_length : Inv (inGenerated .length 3 3) := by
  constructor
  · constructor <;> decide
  all_goals decide

theorem inv_digest : Inv (inGenerated .digest 31 3) := by
  constructor
  · constructor <;> decide
  all_goals decide

theorem inv_lastByteHeld : Inv lastByteHeld := by
  constructor
  · constructor <;> decide
  all_goals decide

theorem inv_payloadByteHeld : Inv payloadByteHeld := by
  constructor
  · constructor <;> decide
  all_goals decide

theorem inv_payload_frame : Inv (inPayload .frame 3 0 0) := by
  constructor
  · constructor <;> decide
  all_goals decide

theorem inv_payload_digest : Inv (inPayload .digestOnly 3 3 3) := by
  constructor
  · constructor <;> decide
  all_goals decide

theorem inv_payload_full : Inv (inPayload .frame 64 64 64) := by
  constructor
  · constructor <;> decide
  all_goals decide

theorem inv_finalize_frame : Inv (inPayload .frame 0 0 0) := by
  constructor
  · constructor <;> decide
  all_goals decide

theorem inv_doneAndErr : Inv doneAndErr := by
  constructor
  · constructor <;> decide
  all_goals decide

theorem witness_DecodeOfEncodeIsTheEvent :
    (Instr.csrRdRsvd 7).wf = true ∧ (Instr.csrWrUnmappedLow 16 0xFFFFFFFF).wf = true ∧
    (Instr.csrWrUnmappedHigh 63 1).wf = true ∧ (Instr.inXfer 0xFF).wf = true := by decide

theorem witness_EncodeOfDecodedEventIsTheWord : decode 0x06FFFFFFFFF = .ok (.csrWrUnmappedHigh 47 0xFFFFFFFF) := by
  decide

/-- Each way of being ill formed, at its least value, beside a word that is well formed. -/
theorem witness_IllFormedWordsAreTheNonzeroMustBeZeroOnes :
    (kindOf 0x00000000001 = 0 ∧ dataOf 0x00000000001 ≠ 0) ∧ (kindOf 0x08100000000 = 2 ∧ addrOf 0x08100000000 ≠ 0) ∧
    (kindOf 0x08000000100 = 2 ∧ (dataOf 0x08000000100).extractLsb' 8 24 ≠ 0) ∧
    (3 ≤ kindOf 0x0C100000000 ∧ addrOf 0x0C100000000 ≠ 0) ∧ (3 ≤ kindOf 0x1C000000001 ∧ dataOf 0x1C000000001 ≠ 0) ∧
    (kindOf 0x080000000FF = 2 ∧ addrOf 0x080000000FF = 0 ∧ (dataOf 0x080000000FF).extractLsb' 8 24 = 0) := by decide

theorem witness_OpcodeMapRowSelectsItsDecodedEvent :
    opcodeTable[0]? = some ⟨0, 0x1FFFFFFFFFF⟩ ∧ opcodeTable[25]? = some ⟨0x1C000000000, 0x1FFFFFFFFFF⟩ := by decide

theorem witness_StepRunsTheOldestPendingEvent :
    (State.reset.withFetchWord 41 0x04300000003).events = [0x04300000003] ∧
    decode 0x04300000003 = .ok (.csrWrLength 3) ∧
    (State.reset.withFetchWord 41 0x08000000100).events = [0x08000000100] ∧
    decode 0x08000000100 = .error .inDataNonzero := by decide

/-- Each engine action in turn, and none. -/
theorem witness_StepWithNothingPendingIsTheEngines :
    ((inGenerated .preamble 7 3).events = [] ∧ enabled EngineAction.gen.event (inGenerated .preamble 7 3) = true) ∧
    ((inPayload .frame 64 64 64).events = [] ∧
      enabled EngineAction.compress.event (inPayload .frame 64 64 64) = true) ∧
    ((inPayload .digestOnly 3 3 3).events = [] ∧
      enabled EngineAction.finalize.event (inPayload .digestOnly 3 3 3) = true) ∧
    (State.reset.events = [] ∧ ∀ a ∈ [EngineAction.gen, .compress, .finalize],
      enabled a.event State.reset = false) := by decide

theorem witness_EveryEnabledEventCompletes :
    (Inv (inPayload .frame 3 0 0) ∧ enabled (.inXfer 0) (inPayload .frame 3 0 0) = true) ∧
    (Inv lastByteHeld ∧ enabled .outXfer lastByteHeld = true) ∧
    (Inv (inGenerated .preamble 7 3) ∧ enabled .gen (inGenerated .preamble 7 3) = true) ∧
    (Inv (inGenerated .length 3 3) ∧ enabled .gen (inGenerated .length 3 3) = true) ∧
    (Inv (inGenerated .digest 31 3) ∧ enabled .gen (inGenerated .digest 31 3) = true) ∧
    (Inv (inPayload .frame 64 64 64) ∧ enabled .compress (inPayload .frame 64 64 64) = true) ∧
    (Inv (inPayload .digestOnly 3 3 3) ∧ enabled .finalize (inPayload .digestOnly 3 3 3) = true) ∧
    (Inv State.reset ∧ enabled .csrRdId State.reset = true ∧ enabled (.csrWrCtrl 1) State.reset = true ∧
      enabled .reset State.reset = true) :=
  ⟨⟨inv_payload_frame, by decide⟩, ⟨inv_lastByteHeld, by decide⟩, ⟨inv_preamble, by decide⟩, ⟨inv_length, by decide⟩,
    ⟨inv_digest, by decide⟩, ⟨inv_payload_full, by decide⟩, ⟨inv_payload_digest, by decide⟩,
    ⟨inv_reset, by decide, by decide, by decide⟩⟩

theorem witness_DisabledEventsHaveNoStep :
    enabled (.inXfer 0) State.reset = false ∧ enabled .outXfer State.reset = false ∧ enabled .gen State.reset = false ∧
    enabled .compress State.reset = false ∧ enabled .finalize State.reset = false := by decide

theorem witness_NoEventWritesTheConfigurationOrTheQueue : ∃ t, exec .outXfer lastByteHeld = .next t :=
  ⟨_, completes (by decide)⟩

/-- An operation is started by the step, and the invariant holds before it. -/
theorem witness_EveryStepKeepsTheInvariant :
    ∃ s t, Inv s ∧ step s = .next t ∧ busy t = true :=
  ⟨State.reset.withFetchWord 41 0x04100000001,
   (nextState (step (State.reset.withFetchWord 41 0x04100000001))).getD State.reset,
   by constructor
      · constructor <;> decide
      all_goals decide,
   rfl, by decide⟩

/-- A DIGEST_ONLY operation whose buffer is full. -/
def traceFullBuffer : List Instr := startDigestOperation 64 false ++ List.replicate 64 (.inXfer 0x41)

/-- A busy state, and the state from which ABORT leaves IDLE with a full buffer. -/
theorem witness_ReachableStatesMeetTheSpecsInvariants :
    (Reachable (afterTrace (startFrameOperation 3 true ++ [.gen, .outXfer])) ∧
      busy (afterTrace (startFrameOperation 3 true ++ [.gen, .outXfer])) = true) ∧
    (Reachable (afterTrace traceFullBuffer) ∧ afterEvent (.csrWrCtrl 4) (afterTrace traceFullBuffer)
      (fun t => (t.phase, t.fill)) = some (.idle, 64)) :=
  ⟨⟨afterTrace_reachable _ (by decide), by decide⟩, afterTrace_reachable _ (by decide), by decide⟩

theorem witness_ErrcodeIsZeroWheneverErrIsZero :
    (Reachable State.reset ∧ State.reset.err = false) ∧
    (∃ t, (doneAndErr.err = false → doneAndErr.errcode = .none) ∧ exec (.csrWrStatus 4) doneAndErr = .next t ∧
      t.err = false) :=
  ⟨⟨.reset _, rfl⟩, ⟨_, by decide, rfl, rfl⟩⟩

theorem witness_EveryStepKeepsTheFunctionalInvariant :
    ∃ s t, Inv s ∧ Functional s ∧ step s = .next t ∧ t.phase = .payload :=
  ⟨State.reset.withFetchWord 41 0x04100000003,
   (nextState (step (State.reset.withFetchWord 41 0x04100000003))).getD State.reset,
   by constructor
      · constructor <;> decide
      all_goals decide,
   by constructor <;> simp [State.reset, State.withFetchWord, busy, beforeDigest],
   rfl, by decide⟩

theorem witness_PaddingIsTheSpecs :
    ([] : List Byte).length < 2 ^ 32 ∧ (zeros 55).length < 2 ^ 32 ∧ (zeros 56).length < 2 ^ 32 ∧
    (zeros 64).length < 2 ^ 32 := by decide

theorem witness_ScheduleFollowsTheRecurrence : (pad [0x61, 0x62, 0x63]).length = 64 := by decide

theorem witness_CompressCompressesTheFullBuffer :
    ((inPayload .frame 64 64 64).phase = .payload ∧ (inPayload .frame 64 64 64).fill = 64 ∧
      (inPayload .frame 64 64 64).buf.readBytes 0 64 = some (List.replicate 64 0x41)) ∧
    ¬ ((inPayload .frame 64 63 63).phase = .payload ∧ (inPayload .frame 64 63 63).fill = 64) := by decide

theorem witness_FinalizeWithAShortTailPadsOneBlock :
    ((inPayload .frame 0 0 0).phase = .payload ∧ (inPayload .frame 0 0 0).nin = (inPayload .frame 0 0 0).length ∧
      (inPayload .frame 0 0 0).fill.toNat ≤ 55 ∧
      (inPayload .frame 0 0 0).buf.readBytes 0 0 = some []) ∧
    ((inPayload .digestOnly 55 55 55).nin = (inPayload .digestOnly 55 55 55).length ∧
      (inPayload .digestOnly 55 55 55).fill.toNat ≤ 55 ∧
      (inPayload .digestOnly 55 55 55).buf.readBytes 0 55 = some (List.replicate 55 0x41)) := by decide

theorem witness_FinalizeWithALongTailPadsTwoBlocks :
    ((inPayload .frame 56 56 56).phase = .payload ∧ (inPayload .frame 56 56 56).nin = (inPayload .frame 56 56 56).length ∧
      56 ≤ (inPayload .frame 56 56 56).fill.toNat ∧
      (inPayload .frame 56 56 56).buf.readBytes 0 56 = some (List.replicate 56 0x41)) ∧
    ((inPayload .digestOnly 63 63 63).fill.toNat ≤ 63 ∧
      (inPayload .digestOnly 63 63 63).buf.readBytes 0 63 = some (List.replicate 63 0x41)) := by decide

/-- The host's and the producer's events of program P3, before its FINALIZE. -/
def traceAbc : List Instr := startDigestOperation 3 false ++ (Pseudo.send [0x61, 0x62, 0x63]).expand

theorem witness_FinalizePublishesSha256OfTheMessage :
    Reachable (afterTrace traceAbc) ∧ ∃ t, exec .finalize (afterTrace traceAbc) = .next t :=
  ⟨afterTrace_reachable _ (by decide), _, completes (by decide)⟩

/-- Two states that differ in an unwritten byte of the buffer, and in `H` while idle. -/
theorem witness_UnwrittenBufferAndIdleHashNeverMatter :
    ((∀ j < (inPayload .frame 3 0 0).fill.toNat,
        Buffer.read [(0, 7)] j = (inPayload .frame 3 0 0).buf.read j) ∧
      ∃ t, exec (.inXfer 1) (inPayload .frame 3 0 0) = .next t) ∧
    ((busy State.reset = true → iv = State.reset.h) ∧ ∃ t, exec (.csrWrCtrl 1) State.reset = .next t) :=
  ⟨⟨by decide, _, completes (by decide)⟩, ⟨by decide, _, completes (by decide)⟩⟩

theorem witness_DigestChangesOnlyByFinalizeAndReset :
    ∃ t, exec .finalize (inPayload .frame 0 0 0) = .next t ∧ t.digest ≠ (inPayload .frame 0 0 0).digest :=
  ⟨_, completes (by decide), by decide⟩

theorem witness_GenProducesTheNextGeneratedByte :
    ((inGenerated .preamble 0 3).ov = false ∧ (inGenerated .preamble 0 3).phase = .preamble) ∧
    ((inGenerated .preamble 7 3).ov = false ∧ (inGenerated .preamble 7 3).gpos < 8) ∧
    ((inGenerated .length 0 3).ov = false ∧ (inGenerated .length 0 3).phase = .length) ∧
    ((inGenerated .length 3 3).ov = false ∧ (inGenerated .length 3 3).gpos < 4) ∧
    ((inGenerated .digest 0 3).ov = false ∧ (inGenerated .digest 0 3).phase = .digest) ∧
    ((inGenerated .digest 31 3).ov = false ∧ (inGenerated .digest 31 3).gpos < 32) ∧
    ¬ (lastByteHeld.ov = false) ∧ ¬ ((inGenerated .digest 32 3).gpos < 32) ∧
    (State.reset.phase ≠ .preamble ∧ State.reset.phase ≠ .length ∧ State.reset.phase ≠ .digest) := by decide

theorem witness_FrameByteAtEveryOffset :
    ([] : List Byte).length < 2 ^ 32 ∧ ([1, 2, 3] : List Byte).length < 2 ^ 32 := by decide

theorem witness_LengthFieldDecodesExactly : (0 : Nat) < 2 ^ 32 ∧ (2 ^ 32 - 1 : Nat) < 2 ^ 32 := by decide

theorem witness_ReceiverRecoversThePayload :
    ([] : List Byte).length < 2 ^ 32 ∧ (preamble ++ preamble).length < 2 ^ 32 := by decide

/-- Each of the listed transitions happens. -/
theorem witness_PhaseTransitionsAreTheListedOnes :
    afterEvent (.csrWrCtrl 1) State.reset State.phase = some .preamble ∧
    afterEvent (.csrWrCtrl 3) State.reset State.phase = some .payload ∧
    afterEvent .gen (inGenerated .preamble 7 3) State.phase = some .length ∧
    afterEvent .gen (inGenerated .length 3 3) State.phase = some .payload ∧
    afterEvent .finalize (inPayload .frame 0 0 0) State.phase = some .digest ∧
    afterEvent .finalize (inPayload .digestOnly 3 3 3) State.phase = some .idle ∧
    afterEvent .outXfer lastByteHeld State.phase = some .idle ∧
    afterEvent (.csrWrCtrl 4) payloadByteHeld State.phase = some .idle ∧
    afterEvent .reset payloadByteHeld State.phase = some .idle ∧
    Inv State.reset ∧ Inv (inGenerated .preamble 7 3) ∧ Inv (inGenerated .length 3 3) ∧ Inv (inPayload .frame 0 0 0) ∧
    Inv (inPayload .digestOnly 3 3 3) ∧ Inv lastByteHeld ∧ Inv payloadByteHeld :=
  ⟨by decide, by decide, by decide, by decide, by decide, by decide, by decide, by decide, by decide, inv_reset,
    inv_preamble, inv_length, inv_finalize_frame, inv_payload_digest, inv_lastByteHeld, inv_payloadByteHeld⟩

/-- Program P1 without its reads: the empty frame. -/
def traceEmptyFrame : List Instr :=
  startFrameOperation 0 false ++ (List.replicate 12 [Instr.gen, .outXfer]).flatten ++ [.finalize] ++
    (List.replicate 32 [Instr.gen, .outXfer]).flatten

/-- The state at the end of P1 is reachable and complete. -/
theorem witness_CompletedFrameOperationDeliveredItsFrame :
    Reachable (afterTrace traceEmptyFrame) ∧ (afterTrace traceEmptyFrame).done = true ∧
    (afterTrace traceEmptyFrame).modeq = .frame :=
  ⟨afterTrace_reachable _ (by decide), by decide, by decide⟩

theorem witness_CompletedDigestOperationDeliveredNothing :
    (Reachable (afterTrace traceAbc) ∧ (afterTrace traceAbc).modeq = .digestOnly ∧
      ∃ t, exec .finalize (afterTrace traceAbc) = .next t) ∧
    (Reachable (afterTrace (traceAbc ++ [.finalize])) ∧ (afterTrace (traceAbc ++ [.finalize])).modeq = .digestOnly ∧
      (afterTrace (traceAbc ++ [.finalize])).done = true) :=
  ⟨⟨afterTrace_reachable _ (by decide), by decide, _, completes (by decide)⟩,
    afterTrace_reachable _ (by decide), by decide, by decide⟩

/-- A FRAME operation that has produced one byte. -/
def traceOneByte : List Instr := startFrameOperation 3 false ++ [.gen]

theorem witness_BytesSoFarAreAPrefixOfTheFrame :
    Reachable (afterTrace traceOneByte) ∧
    busy (afterTrace traceOneByte) = true ∧
    (afterTrace traceOneByte).modeq = .frame ∧
    ((afterTrace traceOneByte).message ++ [1, 2, 3]).length =
      (afterTrace traceOneByte).length.toNat :=
  ⟨afterTrace_reachable _ (by decide), by decide, by decide, by decide⟩

theorem witness_EveryPayloadCanBeFramed :
    Reachable State.reset ∧ State.reset.phase = .idle ∧ State.reset.cfg.shaPresent = true ∧
    ([1, 2, 3] : List Byte).length < 2 ^ 32 := ⟨.reset _, by decide, by decide, by decide⟩

/-- In FRAME mode at the first byte, in DIGEST_ONLY mode at the 64th; and each condition failing alone. -/
theorem witness_InXferTakesTheByte :
    ((inPayload .frame 1 0 0).nin < (inPayload .frame 1 0 0).length ∧ (inPayload .frame 1 0 0).fill < 64 ∧
      (inPayload .frame 1 0 0).ov = false) ∧
    ((inPayload .digestOnly 64 63 63).nin < (inPayload .digestOnly 64 63 63).length ∧
      (inPayload .digestOnly 64 63 63).fill < 64) ∧
    ¬ (State.reset.phase = .payload) ∧ ¬ ((inPayload .frame 3 3 3).nin < (inPayload .frame 3 3 3).length) ∧
    ¬ ((inPayload .frame 65 64 64).fill < 64) ∧
    ¬ (payloadByteHeld.modeq = .digestOnly ∨ payloadByteHeld.ov = false) := by decide

theorem witness_OutXferDeliversTheHeldByte :
    (payloadByteHeld.ov = true ∧ payloadByteHeld.ol = false) ∧ (lastByteHeld.ov = true ∧ lastByteHeld.ol = true) ∧
    State.reset.ov = false := by decide

/-- The byte stays (a read), is transferred, is dropped by ABORT, and by RESET. -/
theorem witness_HeldByteIsStableUntilTransferred :
    payloadByteHeld.ov = true ∧ afterEvent .csrRdId payloadByteHeld State.ov = some true ∧
    afterEvent .outXfer payloadByteHeld State.ov = some false ∧
    afterEvent (.csrWrCtrl 4) payloadByteHeld State.ov = some false ∧
    afterEvent .reset payloadByteHeld State.ov = some false := by decide

/-- Each code of R21 and R220 is held by some state. -/
theorem witness_CtrlAndStatusReadsPlaceTheirFields :
    statusWord { State.reset with phase := .preamble, errcode := .digestUnavailable } = 0x121 ∧
    statusWord { State.reset with phase := .length, errcode := .busyStart } = 0x231 ∧
    statusWord { State.reset with phase := .payload, errcode := .aborted } = 0x341 ∧
    statusWord { State.reset with phase := .digest, errcode := .invalidInput } = 0x411 ∧
    statusWord { State.reset with phase := .idle, errcode := .none } = 0 := by decide

theorem witness_ReadsHaveNoSideEffectAndRepeat : isCsrRead .csrRdStatus = true := by decide

theorem witness_LengthIsWrittenOnlyWhenIdle :
    State.reset.phase = .idle ∧ (inGenerated .preamble 0 5).phase ≠ .idle := by decide

theorem witness_CtrlWriteWithoutCommandWritesModeAndIrqEn :
    (0xFFFFFFFA : Word).getLsbD 2 = false ∧ (0xFFFFFFFA : Word).getLsbD 0 = false := by decide

theorem witness_AbortReturnsToIdleAndRecords :
    (5 : Word).getLsbD 2 = true ∧ payloadByteHeld.phase ≠ .idle ∧ State.reset.phase = .idle := by decide

theorem witness_StartIsRefusedOrBeginsAnOperation :
    ((1 : Word).getLsbD 2 = false ∧ (1 : Word).getLsbD 0 = true) ∧ (3 : Word).getLsbD 0 = true ∧
    payloadByteHeld.phase ≠ .idle ∧
    ((State.resetFor Config.withoutSha).phase = .idle ∧ (State.resetFor Config.withoutSha).cfg.shaPresent = false) ∧
    (State.reset.phase = .idle ∧ State.reset.cfg.shaPresent = true) := by decide

theorem witness_RunningOperationKeepsItsLengthAndMode :
    busy (inGenerated .preamble 0 5) = true ∧
    afterEvent (.csrWrLength 9) (inGenerated .preamble 0 5) busy = some true ∧
    afterEvent (.csrWrCtrl 2) (inGenerated .preamble 0 5) busy = some true := by decide

/-- Each flag set and cleared, by each kind of cause. -/
theorem witness_FlagsChangeOnlyAsListed :
    afterEvent .outXfer lastByteHeld State.done = some true ∧
    afterEvent .finalize (inPayload .digestOnly 3 3 3) State.done = some true ∧
    afterEvent (.csrWrCtrl 1) doneAndErr (fun t => (t.done, t.err, busy t)) = some (false, false, true) ∧
    afterEvent (.csrWrStatus 6) doneAndErr (fun t => (t.done, t.err)) = some (false, false) ∧
    afterEvent (.csrWrCtrl 4) payloadByteHeld (fun t => (t.err, busy t)) = some (true, false) ∧
    afterEvent (.csrWrCtrl 1) payloadByteHeld State.err = some true ∧
    afterEvent (.csrWrCtrl 1) (State.resetFor Config.withoutSha) State.err = some true ∧
    Inv lastByteHeld ∧ Inv (inPayload .digestOnly 3 3 3) ∧ Inv doneAndErr ∧ Inv payloadByteHeld :=
  ⟨by decide, by decide, by decide, by decide, by decide, by decide, by decide, inv_lastByteHeld, inv_payload_digest,
    inv_doneAndErr, inv_payloadByteHeld⟩

theorem witness_ErrorsAreRaisedOnlyByStartAndAbort :
    (afterEvent (.csrWrCtrl 4) payloadByteHeld (fun t => (t.err, t.errcode)) = some (true, .aborted)) ∧
    (afterEvent (.csrWrCtrl 1) payloadByteHeld (fun t => (t.err, t.errcode)) = some (true, .busyStart)) ∧
    (afterEvent (.csrWrCtrl 1) (State.resetFor Config.withoutSha) (fun t => (t.err, t.errcode)) =
      some (true, .digestUnavailable)) ∧
    payloadByteHeld.err = false ∧ (State.resetFor Config.withoutSha).err = false := by decide

/-- `irq` rises by completion, by an error and by unmasking, and falls by each listed cause. -/
theorem witness_IrqRisesAndFallsOnlyAsListed :
    afterEvent .outXfer { lastByteHeld with irqEn := true } irq = some true ∧
    afterEvent .finalize { inPayload .digestOnly 3 3 3 with irqEn := true } irq = some true ∧
    afterEvent (.csrWrCtrl 0xC) payloadByteHeld irq = some true ∧
    irq { doneAndErr with irqEn := true } = true ∧
    afterEvent (.csrWrStatus 6) { doneAndErr with irqEn := true } irq = some false ∧
    afterEvent (.csrWrCtrl 0) { doneAndErr with irqEn := true } irq = some false ∧
    afterEvent (.csrWrCtrl 9) { doneAndErr with irqEn := true } irq = some false ∧
    afterEvent .reset { doneAndErr with irqEn := true } irq = some false := by decide

theorem witness_WithoutTheEngineNothingStarts :
    Reachable (State.resetFor Config.withoutSha) ∧ (State.resetFor Config.withoutSha).cfg.shaPresent = false ∧
    (9 : Word).getLsbD 2 = false ∧ (9 : Word).getLsbD 0 = true := ⟨.reset _, by decide, by decide, by decide⟩

/-- A busy state for each of the three conclusions. -/
theorem witness_BusyBlockAlwaysHasAnEnabledAction :
    (Inv (inPayload .frame 3 0 0) ∧ busy (inPayload .frame 3 0 0) = true) ∧
    (Inv lastByteHeld ∧ busy lastByteHeld = true) ∧ (Inv (inPayload .frame 64 64 64) ∧ busy (inPayload .frame 64 64 64) = true) :=
  ⟨⟨inv_payload_frame, by decide⟩, ⟨inv_lastByteHeld, by decide⟩, ⟨inv_payload_full, by decide⟩⟩

theorem witness_EveryTransferAndActionReducesTheWork :
    (Inv (inPayload .frame 3 0 0) ∧ carriesOn (.inXfer 1) ∧ ∃ t, exec (.inXfer 1) (inPayload .frame 3 0 0) = .next t) ∧
    (Inv lastByteHeld ∧ carriesOn .outXfer ∧ ∃ t, exec .outXfer lastByteHeld = .next t) ∧
    (Inv (inGenerated .preamble 7 3) ∧ carriesOn .gen ∧ ∃ t, exec .gen (inGenerated .preamble 7 3) = .next t) ∧
    (Inv (inPayload .frame 64 64 64) ∧ carriesOn .compress ∧ ∃ t, exec .compress (inPayload .frame 64 64 64) = .next t) ∧
    (Inv (inPayload .frame 0 0 0) ∧ carriesOn .finalize ∧ ∃ t, exec .finalize (inPayload .frame 0 0 0) = .next t) :=
  ⟨⟨inv_payload_frame, .inl rfl, _, completes (by decide)⟩, ⟨inv_lastByteHeld, .inr (.inl rfl), _, completes (by decide)⟩,
    ⟨inv_preamble, .inr (.inr rfl), _, completes (by decide)⟩, ⟨inv_payload_full, .inr (.inr rfl), _, completes (by decide)⟩,
    ⟨inv_finalize_frame, .inr (.inr rfl), _, completes (by decide)⟩⟩

/-- The wait is kept by a read, shortened by `in`, and ended by ABORT. -/
theorem witness_UnderSuppliedOperationWaitsInPayload :
    Inv payloadByteHeld ∧ payloadByteHeld.phase = .payload ∧ payloadByteHeld.nin < payloadByteHeld.length ∧
    afterEvent .outXfer payloadByteHeld State.phase = some .payload ∧
    afterEvent (.inXfer 9) (inPayload .frame 3 0 0) State.nin = some 1 ∧
    afterEvent (.csrWrCtrl 4) payloadByteHeld State.phase = some .idle :=
  ⟨inv_payloadByteHeld, by decide, by decide, by decide, by decide, by decide⟩

/-! A fair run: the operation's one remaining action happens in the first cycle, and the agents go on offering. -/

/-- Every agent but the host goes on offering; the engine's commit is `c` in the first cycle. -/
def offering (c : Option EngineAction) (n : Nat) : CycleIn :=
  { CycleIn.quiet with inValid := true, outReady := true, commit := if n = 0 then c else none }

theorem cycle_offering_idle {c : Option EngineAction} {s : State} (n : Nat) (hp : s.phase = .idle)
    (hv : s.ov = false) : cycle (offering c (n + 1)) s = .next { s with draws := s.draws + 1 } := by
  have h1 : inReady s = false := by simp [inReady, hp]
  have h2 : outEnabled s = false := by simp [outEnabled, hv]
  simp [cycle, offering, CycleIn.quiet, commitLegal, cycleActions, occurs, commitAction, h1, h2]

theorem idle_not_enabled {s : State} (hp : s.phase = .idle) (a : EngineAction) : enabled a.event s = false := by
  cases a <;> simp [EngineAction.event, enabled, genEnabled, compressEnabled, finalizeEnabled, hp]

theorem runCycles_offering {c : Option EngineAction} {s u : State} (h : cycle (offering c 0) s = .next u)
    (hp : u.phase = .idle) (hv : u.ov = false) :
    ∀ n, runCycles (offering c) (n + 1) s = .next { u with draws := u.draws + n }
  | 0 => by simp [runCycles, h]
  | n + 1 => by
    rw [runCycles, runCycles_offering h hp hv n, andThen_next]
    exact cycle_offering_idle n hp hv

theorem fairRun_offering {c : Option EngineAction} {s u : State} (h : cycle (offering c 0) s = .next u)
    (hp : u.phase = .idle) (hv : u.ov = false) (hc : ∀ a : EngineAction, enabled a.event s = true → c = some a) :
    FairRun (offering c) s where
  runs n := by
    cases n with
    | zero => exact ⟨s, rfl⟩
    | succ n => exact ⟨_, runCycles_offering h hp hv n⟩
  fair n t a ht he := by
    cases n with
    | zero =>
      cases ht
      refine ⟨0, ?_, s, rfl, .inl ?_⟩
      · cases a <;> simp [EngineAction.bound, Config.tGen, Config.tCompress, Config.tFinalize]
      · simp [offering, hc a he]
    | succ n =>
      rw [runCycles_offering h hp hv n] at ht
      cases ht
      have := idle_not_enabled (s := { u with draws := u.draws + n }) hp a
      rw [this] at he
      cases he

/-- A DIGEST_ONLY operation that FINALIZE ends, and a FRAME operation that the last OUT ends. -/
theorem witness_FairRunCompletesTheOperation :
    (Inv (inPayload .digestOnly 3 3 3) ∧ busy (inPayload .digestOnly 3 3 3) = true ∧
      FairRun (offering (some .finalize)) (inPayload .digestOnly 3 3 3)) ∧
    (Inv lastByteHeld ∧ busy lastByteHeld = true ∧ FairRun (offering none) lastByteHeld) ∧
    (∀ c n, (offering c n).rstN = true ∧ (offering c n).csrWe = false) ∧
    (∀ c n, ∃ m, n ≤ m ∧ (offering c m).inValid = true) ∧ (∀ c n, ∃ m, n ≤ m ∧ (offering c m).outReady = true) := by
  refine ⟨⟨inv_payload_digest, by decide, ?_⟩, ⟨inv_lastByteHeld, by decide, ?_⟩, fun _ _ => ⟨rfl, rfl⟩,
    fun _ n => ⟨n, Nat.le_refl n, rfl⟩, fun _ n => ⟨n, Nat.le_refl n, rfl⟩⟩
  · obtain ⟨u, hx, hu⟩ := next_of_view (by decide :
      (nextState (cycle (offering (some .finalize) 0) (inPayload .digestOnly 3 3 3))).map (fun u => (u.phase, u.ov)) =
        some (.idle, false))
    exact fairRun_offering hx (congrArg Prod.fst hu) (congrArg Prod.snd hu) (by intro a; cases a <;> decide)
  · obtain ⟨u, hx, hu⟩ := next_of_view (by decide :
      (nextState (cycle (offering none 0) lastByteHeld)).map (fun u => (u.phase, u.ov)) = some (.idle, false))
    exact fairRun_offering hx (congrArg Prod.fst hu) (congrArg Prod.snd hu) (by intro a; cases a <;> decide)

theorem witness_CycleOfOneEventIsThatEvent :
    inReady (inPayload .frame 3 0 0) = true ∧ lastByteHeld.ov = true ∧
    ({ CycleIn.quiet with rstN := false } : CycleIn).rstN = false ∧
    (({ CycleIn.quiet with csrWe := true, csrRe := true } : CycleIn).csrWe = true) ∧
    (inReady payloadByteHeld = false ∧ payloadByteHeld.ov = true) ∧
    ((inPayload .frame 3 0 0).ov = false) ∧ (inReady State.reset = false ∧ State.reset.ov = false) := by decide

theorem witness_CycleActionsDoNotInterfere :
    (Inv (inPayload .frame 3 0 0) ∧ inReady (inPayload .frame 3 0 0) = true) ∧
    (Inv (inPayload .frame 64 64 64) ∧ enabled EngineAction.compress.event (inPayload .frame 64 64 64) = true) ∧
    (Inv { inPayload .frame 3 3 3 with ov := true } ∧ ({ inPayload .frame 3 3 3 with ov := true } : State).ov = true ∧
      enabled EngineAction.finalize.event { inPayload .frame 3 3 3 with ov := true } = true) :=
  ⟨⟨inv_payload_frame, by decide⟩, ⟨inv_payload_full, by decide⟩,
    ⟨by constructor
        · constructor <;> decide
        all_goals decide, by decide, by decide⟩⟩

/-- A FINALIZE and an OUT in one cycle with a read (P2, events 34 to 36), and a START. -/
theorem witness_EveryCycleIsAnInterleaving :
    (cycleEvents { CycleIn.quiet with outReady := true, commit := some .finalize, csrRe := true, csrAddr := 2 }
        { inPayload .frame 3 3 3 with ov := true } = [.csrRdStatus, .outXfer, .finalize]) ∧
    (nextState (cycle { CycleIn.quiet with outReady := true, commit := some .finalize, csrRe := true, csrAddr := 2 }
        { inPayload .frame 3 3 3 with ov := true })).map (fun t => (t.phase, t.ov)) = some (.digest, false) ∧
    (Reachable State.reset ∧
      ∃ t, cycle { CycleIn.quiet with csrWe := true, csrAddr := 1, csrWdata := 1 } State.reset = .next t ∧ busy t = true) :=
  ⟨by decide, by decide, .reset _, next_of_view (by decide)⟩

/-- A cycle that takes a byte and writes `v` at word index `a`. -/
def takeAndWrite (a : CsrIndex) (v : Word) : CycleIn :=
  { CycleIn.quiet with csrWe := true, outReady := true, csrAddr := a, csrWdata := v }

/-- ABORT, START and the clearing write, each in the cycle that takes the last byte, and in the cycle in which the engine
commits FINALIZE. -/
theorem witness_CompletionInTheSameCycleComesFirst :
    (Inv lastByteHeld ∧ lastByteHeld.ov = true ∧ lastByteHeld.ol = true) ∧
    (Inv (inPayload .digestOnly 3 3 3) ∧ (inPayload .digestOnly 3 3 3).modeq = .digestOnly ∧
      finalizeEnabled (inPayload .digestOnly 3 3 3) = true) ∧
    (∀ a v, (takeAndWrite a v).rstN = true ∧ (takeAndWrite a v).csrRe = false ∧ (takeAndWrite a v).csrWe = true ∧
      (takeAndWrite a v).outReady = true ∧ (takeAndWrite a v).commit = none ∧
      ({ takeAndWrite a v with commit := some .finalize } : CycleIn).commit = some .finalize) ∧
    ((takeAndWrite 1 4).csrAddr = 1 ∧ (takeAndWrite 1 4).csrWdata.getLsbD 2 = true) ∧
    ((takeAndWrite 1 1).csrAddr = 1 ∧ (takeAndWrite 1 1).csrWdata.getLsbD 2 = false ∧
      (takeAndWrite 1 1).csrWdata.getLsbD 0 = true) ∧
    ((takeAndWrite 2 2).csrAddr = 2 ∧ (takeAndWrite 2 2).csrWdata.getLsbD 1 = true) :=
  ⟨⟨inv_lastByteHeld, by decide, by decide⟩, ⟨inv_payload_digest, by decide, by decide⟩,
    fun _ _ => ⟨rfl, rfl, rfl, rfl, rfl, rfl⟩, by decide, by decide, by decide⟩

theorem witness_OutputPortsFollowTheState :
    (CycleIn.quiet.rstN = true ∧ ({ CycleIn.quiet with csrRe := true } : CycleIn).csrRe = true) ∧
    ({ CycleIn.quiet with rstN := false } : CycleIn).rstN = false := by decide

end Sys2Proof.Tests
end

section
/-! The scope family (spec/00_scope.md R12, R15): which events have a step, what the engine does on its own, and what
no event writes. -/

namespace Sys2Proof.Machine

/-! ### The engine's choice -/

theorem genEnabled_eq_false_of_payload {s : State} (h : s.phase = .payload) : genEnabled s = false := by
  simp [genEnabled, h]

theorem compressEnabled_eq_false_of_finalizeEnabled {s : State} (h : finalizeEnabled s = true) :
    compressEnabled s = false := by
  obtain ⟨-, -, hfill⟩ := (finalizeEnabled_iff s).mp h
  refine Bool.eq_false_iff.mpr fun hc => BitVec.ne_of_lt hfill ?_
  exact ((compressEnabled_iff s).mp hc).2

/-- The order in which `engineChoice` tests the three actions does not matter: it picks whichever is enabled. -/
theorem engineChoice_eq_some_iff {s : State} {a : EngineAction} :
    engineChoice s = some a ↔ enabled a.event s = true := by
  refine ⟨engineChoice_enabled, fun h => ?_⟩
  cases a with
  | gen =>
    have hg : genEnabled s = true := h
    simp [engineChoice, hg]
  | compress =>
    have hc : compressEnabled s = true := h
    have hg := genEnabled_eq_false_of_payload ((compressEnabled_iff s).mp hc).1
    simp [engineChoice, hg, hc]
  | finalize =>
    have hf : finalizeEnabled s = true := h
    have hg := genEnabled_eq_false_of_payload ((finalizeEnabled_iff s).mp hf).1
    simp [engineChoice, hg, compressEnabled_eq_false_of_finalizeEnabled hf, hf]

/-- At most one engine action is enabled (spec/20_memory.md R72). -/
theorem enabledEngineAction_unique {s : State} {a b : EngineAction} (ha : enabled a.event s = true)
    (hb : enabled b.event s = true) : a = b :=
  Option.some.inj ((engineChoice_eq_some_iff.mpr ha).symm.trans (engineChoice_eq_some_iff.mpr hb))

theorem engineChoice_eq_none_iff {s : State} :
    engineChoice s = none ↔ ∀ a : EngineAction, enabled a.event s = false := by
  simp only [Option.eq_none_iff_forall_ne_some, ne_eq, engineChoice_eq_some_iff, Bool.not_eq_true]

theorem engineStep_of_enabled {s : State} {a : EngineAction} (h : enabled a.event s = true) :
    engineStep s = exec a.event s := by
  simp only [engineStep, engineChoice_eq_some_iff.mpr h]

theorem engineStep_of_all_disabled {s : State} (h : ∀ a : EngineAction, enabled a.event s = false) :
    engineStep s = .next s := by
  simp only [engineStep, engineChoice_eq_none_iff.mpr h]

theorem step_of_events_nil {s : State} (h : s.events = []) : step s = engineStep s := by
  simp only [step, nextEvent, h]

/-- Settles O8: with an empty queue the step is `engineStep`, which performs the one enabled action. -/
theorem stepWithNothingPendingIsTheEngines : Obligations.StepWithNothingPendingIsTheEngines := fun _ hs =>
  ⟨fun _ ha => (step_of_events_nil hs).trans (engineStep_of_enabled ha),
    fun hn => (step_of_events_nil hs).trans (engineStep_of_all_disabled hn)⟩

/-! ### Enabled events complete -/

/-- GEN's `gpos` is in its phase's range wherever the invariant holds (R23), so it has a byte to produce. -/
theorem Inv.exists_generatedByte {s : State} (hs : Inv s) (h : genEnabled s = true) :
    ∃ b, generatedByte s = some b := by
  obtain ⟨-, hp | hp | ⟨hp, hg⟩⟩ := (genEnabled_iff s).mp h
  · have hg : s.gpos.toNat < preamble.length := hs.gposPreamble hp
    exact ⟨preamble[s.gpos.toNat], by simp only [generatedByte, hp, List.getElem?_eq_getElem hg]⟩
  · exact ⟨byteOfWord s.length s.gpos.toNat, by simp only [generatedByte, hp, if_pos (hs.gposLength hp)]⟩
  · exact ⟨digestByte s.digest s.gpos.toNat, by simp only [generatedByte, hp, if_pos hg]⟩

/-- COMPRESS reads only bytes that hold values: its buffer is full. -/
theorem Inv.exists_fullBlock {s : State} (hs : Inv s) (h : compressEnabled s = true) :
    ∃ block, s.buf.readBytes 0 64 = some block := by
  obtain ⟨-, hfill⟩ := (compressEnabled_iff s).mp h
  refine Option.isSome_iff_exists.mp (s.buf.readBytes_isSome 0 64 fun j hj => ?_)
  rw [Nat.zero_add]
  exact hs.bufWritten j (by rw [hfill]; exact hj)

/-- Bytes written from `i` on extend a buffer that holds values below `i`. -/
theorem Buffer.isSome_read_writeBytes (m : Buffer) {i j : Nat} (bs : List Byte)
    (h : ∀ k < i, (m.read k).isSome = true) (hj : j < i + bs.length) :
    ((m.writeBytes i bs).read j).isSome = true := by
  rw [Buffer.read_writeBytes]
  by_cases hij : i ≤ j
  · have hlt : j - i < bs.length := by omega
    rw [if_pos ⟨hij, hj⟩, List.getElem?_eq_getElem hlt, Option.isSome_some]
  · rw [if_neg (by omega)]
    exact h j (by omega)

@[simp] theorem zeros_length (n : Nat) : (zeros n).length = n := List.length_replicate

@[simp] theorem bitLengthBytes_length (len : Word) : (bitLengthBytes len).length = 8 := rfl

/-- In both branches of R121 the padding runs from `fill` to the end of the buffer. -/
theorem padBuffer_buf_eq_writeBytes {s : State} (h : s.fill < 64) :
    ∃ bs, s.fill.toNat + bs.length = 64 ∧ (padBuffer s).buf = s.buf.writeBytes s.fill.toNat bs := by
  have hlt : s.fill.toNat < 64 := h
  by_cases hf : s.fill.toNat ≤ 55
  · refine ⟨0x80 :: zeros (55 - s.fill.toNat) ++ bitLengthBytes s.length, ?_, by simp only [padBuffer, if_pos hf]⟩
    simp only [List.length_append, List.length_cons, zeros_length, bitLengthBytes_length]
    omega
  · refine ⟨0x80 :: zeros (63 - s.fill.toNat), ?_, by simp only [padBuffer, if_neg hf]⟩
    simp only [List.length_cons, zeros_length]
    omega

/-- FINALIZE reads only bytes that hold values: the message's below `fill`, the padding's from there on. -/
theorem Inv.exists_paddedBlock {s : State} (hs : Inv s) (h : finalizeEnabled s = true) :
    ∃ block, (padBuffer s).buf.readBytes 0 64 = some block := by
  obtain ⟨-, -, hfill⟩ := (finalizeEnabled_iff s).mp h
  obtain ⟨bs, hlen, hbuf⟩ := padBuffer_buf_eq_writeBytes hfill
  refine Option.isSome_iff_exists.mp (Buffer.readBytes_isSome _ 0 64 fun j hj => ?_)
  rw [hbuf, Nat.zero_add]
  exact s.buf.isSome_read_writeBytes bs hs.bufWritten (by omega)

/-- Settles O9, event by event: only GEN, COMPRESS and FINALIZE can fault, and the invariant rules their faults out. -/
theorem everyEnabledEventCompletes : Obligations.EveryEnabledEventCompletes := by
  intro i s hs h
  cases i with
  | inXfer b => exact ⟨_, execInXfer_eq_next.mpr ⟨h, rfl⟩⟩
  | outXfer => exact ⟨_, execOutXfer_eq_next.mpr ⟨h, rfl⟩⟩
  | gen =>
    obtain ⟨b, hb⟩ := hs.exists_generatedByte h
    exact ⟨_, execGen_eq_next.mpr ⟨h, b, hb, rfl⟩⟩
  | compress =>
    obtain ⟨block, hblock⟩ := hs.exists_fullBlock h
    exact ⟨_, execCompress_eq_next.mpr ⟨h, block, hblock, rfl⟩⟩
  | finalize =>
    obtain ⟨block, hblock⟩ := hs.exists_paddedBlock h
    exact ⟨_, execFinalize_eq_next.mpr ⟨h, block, hblock, rfl⟩⟩
  | csrRdId | csrRdCtrl | csrRdStatus | csrRdLength | csrRdCount | csrRdCaps | csrRdRsvd | csrRdDigest
  | csrRdUnmappedLow | csrRdUnmappedHigh | csrWrId | csrWrCtrl | csrWrStatus | csrWrLength | csrWrCount | csrWrCaps
  | csrWrRsvd | csrWrDigest | csrWrUnmappedLow | csrWrUnmappedHigh | reset => exact ⟨_, rfl⟩

/-! ### Disabled events are refused -/

/-- Settles O10: the five events with a condition test it first and refuse in the `else` branch; every other event is
enabled. -/
theorem disabledEventsHaveNoStep : Obligations.DisabledEventsHaveNoStep := by
  intro i s h
  cases i with
  | inXfer | outXfer | gen | compress | finalize => exact if_neg (ne_true_of_eq_false h)
  | csrRdId | csrRdCtrl | csrRdStatus | csrRdLength | csrRdCount | csrRdCaps | csrRdRsvd | csrRdDigest
  | csrRdUnmappedLow | csrRdUnmappedHigh | csrWrId | csrWrCtrl | csrWrStatus | csrWrLength | csrWrCount | csrWrCaps
  | csrWrRsvd | csrWrDigest | csrWrUnmappedLow | csrWrUnmappedHigh | reset => exact Bool.noConfusion h

/-! ### What no event writes -/

theorem abortOp_keeps_cfg_events_draws (s : State) :
    (abortOp s).cfg = s.cfg ∧ (abortOp s).events = s.events ∧ (abortOp s).draws = s.draws := by
  cases hb : busy s with
  | false => simp only [abortOp_of_idle hb, and_self]
  | true => simp only [abortOp_of_busy hb, and_self]

theorem startOp_keeps_cfg_events_draws (s : State) :
    (startOp s).cfg = s.cfg ∧ (startOp s).events = s.events ∧ (startOp s).draws = s.draws := by
  obtain ⟨-, e⟩ | ⟨-, -, e⟩ | ⟨-, -, e⟩ := startOp_cases s <;> rw [e] <;> exact ⟨rfl, rfl, rfl⟩

theorem advanceGen_keeps_cfg_events_draws (s : State) :
    (advanceGen s).cfg = s.cfg ∧ (advanceGen s).events = s.events ∧ (advanceGen s).draws = s.draws := by
  obtain ⟨-, -, e⟩ | ⟨-, -, e⟩ | ⟨-, -, e⟩ := advanceGen_cases s <;> rw [e] <;> exact ⟨rfl, rfl, rfl⟩

/-- Settles O11, by the cases of `exec_cases` and the inversion lemma of each enabled action. -/
theorem noEventWritesTheConfigurationOrTheQueue : Obligations.NoEventWritesTheConfigurationOrTheQueue := by
  intro i s t h
  obtain ⟨-, v, rfl⟩ | rfl | ⟨v, -, -, rfl⟩ | ⟨v, -, -, -, rfl⟩ | ⟨v, -, -, -, rfl⟩ | ⟨v, -, rfl⟩ | ⟨v, -, -, rfl⟩ |
    ⟨b, rfl⟩ | rfl | rfl | rfl | rfl | ⟨-, rfl⟩ := exec_cases h
  · exact ⟨rfl, rfl, rfl⟩
  · exact ⟨rfl, rfl, rfl⟩
  · exact abortOp_keeps_cfg_events_draws _
  · exact startOp_keeps_cfg_events_draws _
  · exact ⟨rfl, rfl, rfl⟩
  · exact ⟨rfl, rfl, rfl⟩
  · exact ⟨rfl, rfl, rfl⟩
  · obtain ⟨-, rfl⟩ := execInXfer_eq_next.mp h
    exact ⟨rfl, rfl, rfl⟩
  · obtain ⟨-, rfl⟩ := execOutXfer_eq_next.mp h
    exact ⟨rfl, rfl, rfl⟩
  · obtain ⟨-, b, -, rfl⟩ := execGen_eq_next.mp h
    exact advanceGen_keeps_cfg_events_draws _
  · obtain ⟨-, block, -, rfl⟩ := execCompress_eq_next.mp h
    exact ⟨rfl, rfl, rfl⟩
  · obtain ⟨-, block, -, rfl⟩ := execFinalize_eq_next.mp h
    exact ⟨rfl, rfl, rfl⟩
  · exact ⟨rfl, rfl, rfl⟩

end Sys2Proof.Machine
end

section
/-! The state family (spec/10_state.md R23 to R41): the inductive invariant, what reset leaves, what no event reads,
and which events change the digest and the flags. -/

namespace Sys2Proof.Machine

/-! ### Further rules of the buffer and of single events -/

theorem Buffer.readBytes_congr {m m' : Buffer} {i n : Nat} (h : ∀ j < i + n, m'.read j = m.read j) :
    m'.readBytes i n = m.readBytes i n := by
  induction n generalizing i with
  | zero => rfl
  | succ n ih =>
    simp only [Buffer.readBytes]
    rw [h i (by omega), ih fun j hj => h j (by omega)]

/-- A run of writes from `i` on hides any difference beyond `i`. -/
theorem Buffer.read_writeBytes_congr {m m' : Buffer} {i : Nat} (bs : List Byte) (h : ∀ j < i, m'.read j = m.read j) :
    ∀ j < i + bs.length, (m'.writeBytes i bs).read j = (m.writeBytes i bs).read j := by
  intro j hj
  rw [Buffer.read_writeBytes, Buffer.read_writeBytes]
  split
  · rfl
  · exact h j (by omega)

/-- The bytes FINALIZE writes from `fill` on (R121). -/
def padding (s : State) : List Byte :=
  if s.fill.toNat ≤ 55 then 0x80 :: zeros (55 - s.fill.toNat) ++ bitLengthBytes s.length
  else 0x80 :: zeros (63 - s.fill.toNat)

theorem padBuffer_buf (s : State) : (padBuffer s).buf = s.buf.writeBytes s.fill.toNat (padding s) := by
  simp only [padBuffer, padding]
  split <;> rfl

theorem padding_length {s : State} (h : s.fill < 64) : s.fill.toNat + (padding s).length = 64 := by
  have hlt : s.fill.toNat < 64 := h
  unfold padding
  split <;> simp <;> omega

theorem wf_padBuffer {s : State} (hfill : s.fill < 64) (hs : s.buf.wf = true) : (padBuffer s).buf.wf = true := by
  rw [padBuffer_buf]
  exact s.buf.writeBytes_wf _ _ (padding_length hfill).le hs

theorem startOp_of_busy {s : State} (hb : busy s = true) : startOp s = raiseError .busyStart s := if_pos hb

theorem startOp_of_withoutSha {s : State} (hb : busy s = false) (hc : s.cfg.shaPresent = false) :
    startOp s = raiseError .digestUnavailable (clearDone s) := by
  simp [startOp, hb, hc]

theorem startOp_of_accepted {s : State} (hb : busy s = false) (hc : s.cfg.shaPresent = true) :
    startOp s = acceptStart s := by
  simp [startOp, hb, hc]

/-- What a LENGTH write does (R190). -/
theorem exec_csrWrLength (v : Word) (s : State) :
    exec (.csrWrLength v) s = .next { s with length := if busy s then s.length else v } := by
  simp only [exec, execCsrWrLength]
  cases busy s <;> rfl

/-- GEN, by where it stands in the frame (R145): at the end of the preamble, at the end of the length field, before
that, or in the digest. -/
theorem execGen_cases {s t : State} (h : exec .gen s = .next t) :
    ∃ b, generatedByte s = some b ∧ s.ov = false ∧
      ((s.phase = .preamble ∧ s.gpos + 1 = 8 ∧
          t = { s with od := b, ov := true, ol := false, phase := .length, gpos := 0 }) ∨
       (s.phase = .length ∧ s.gpos + 1 = 4 ∧
          t = { s with od := b, ov := true, ol := false, phase := .payload, gpos := 0 }) ∨
       ((s.phase = .preamble ∧ s.gpos + 1 ≠ 8 ∨ s.phase = .length ∧ s.gpos + 1 ≠ 4) ∧
          t = { s with od := b, ov := true, ol := false, gpos := s.gpos + 1 }) ∨
       (s.phase = .digest ∧ s.gpos < 32 ∧
          t = { s with od := b, ov := true, ol := decide (s.gpos = 31), gpos := s.gpos + 1 })) := by
  obtain ⟨hg, b, hb, rfl⟩ := execGen_eq_next.mp h
  obtain ⟨hov, hphase⟩ := (genEnabled_iff s).mp hg
  refine ⟨b, hb, hov, ?_⟩
  obtain ⟨hp, h8, e⟩ | ⟨hp, h4, e⟩ | ⟨h8, h4, e⟩ := advanceGen_cases (holdByte b _ s) <;> rw [e]
  · replace hp : s.phase = .preamble := hp
    exact .inl ⟨hp, h8, by simp [holdByte, hp]⟩
  · replace hp : s.phase = .length := hp
    exact .inr (.inl ⟨hp, h4, by simp [holdByte, hp]⟩)
  · obtain hp | hp | ⟨hp, hlt⟩ := hphase
    · exact .inr (.inr (.inl ⟨.inl ⟨hp, fun h => h8 ⟨hp, h⟩⟩, by simp [holdByte, hp]⟩))
    · exact .inr (.inr (.inl ⟨.inr ⟨hp, fun h => h4 ⟨hp, h⟩⟩, by simp [holdByte, hp]⟩))
    · exact .inr (.inr (.inr ⟨hp, hlt, by simp [holdByte, hp]⟩))

/-! ### The invariant, phase by phase -/

/-- What the invariant says in every phase: of the error record (R222, R223) and of the block buffer (R26). -/
structure Stored (s : State) : Prop where
  fillRange : s.fill ≤ 64
  errRecord : s.err = false → s.errcode = .none
  neverInvalidInput : s.errcode ≠ .invalidInput
  bufCanonical : s.buf.wf = true
  bufWritten : ∀ i < s.fill.toNat, (s.buf.read i).isSome = true

/-- What it says besides of a running operation, in each of its phases: (I4), (I5) and (I7) of R40. -/
structure Running (s : State) : Prop extends Stored s where
  count : s.nin ≤ s.length
  notDone : s.done = false
  engine : s.cfg.shaPresent = true

theorem Inv.stored {s : State} (hs : Inv s) : Stored s :=
  ⟨hs.i1_range, hs.errRecord, hs.neverInvalidInput, hs.bufCanonical, hs.bufWritten⟩

theorem Inv.running {s : State} (hs : Inv s) (hb : busy s = true) : Running s where
  toStored := hs.stored
  count := hs.i4_count hb
  notDone := hs.i5 hb
  engine := Bool.of_not_eq_false fun hc => (busy_iff s).mp hb (hs.i7 hc)

theorem Inv.ol_eq_false {s : State} (hs : Inv s) (hp : s.phase ≠ .digest) : s.ol = false :=
  Bool.of_not_eq_true fun h => hp (hs.i3 h).2.1

theorem Inv.modeq_eq_frame {s : State} (hs : Inv s) (hb : busy s = true) (hp : s.phase ≠ .payload) :
    s.modeq = .frame := by
  cases hm : s.modeq with
  | frame => rfl
  | digestOnly => exact absurd (hs.i6 hm hb).1 hp

/-- In IDLE only (I2) is left; every other field is about another phase. -/
theorem inv_idle_iff {s : State} (hp : s.phase = .idle) : Inv s ↔ Stored s ∧ s.ov = false ∧ s.ol = false := by
  constructor
  · exact fun hs => ⟨hs.stored, hs.i2 hp⟩
  · rintro ⟨hst, hov, hol⟩
    obtain ⟨hfill, herr, hcode, hwf, hbuf⟩ := hst
    constructor
    · constructor <;> simp_all [busy]
    all_goals simp_all

/-- While the preamble and the length field are generated, nothing of the message is in yet. -/
theorem inv_generated_iff {s : State} (hp : s.phase = .preamble ∨ s.phase = .length) :
    Inv s ↔ Running s ∧ s.modeq = .frame ∧ s.ol = false ∧ s.fill = 0 ∧ s.nin = 0 ∧
      s.gpos < (if s.phase = .preamble then 8 else 4) := by
  constructor
  · intro hs
    have hb : busy s = true := (busy_iff s).mpr (by rintro e; simp [e] at hp)
    have hp' : s.phase ≠ .payload ∧ s.phase ≠ .digest := by constructor <;> rintro e <;> simp [e] at hp
    refine ⟨hs.running hb, hs.modeq_eq_frame hb hp'.1, hs.ol_eq_false hp'.2,
      hs.fillOutside (by tauto), hs.countBefore hp, ?_⟩
    obtain h | h := hp
    · simpa [h] using hs.gposPreamble h
    · simpa [h] using hs.gposLength h
  · rintro ⟨⟨⟨hfill, herr, hcode, hwf, hbuf⟩, hcount, hdone, hsha⟩, hm, hol, hf, hn, hg⟩
    obtain h | h := hp
    all_goals
      constructor
      · constructor <;> simp_all
      all_goals simp_all

/-- In PAYLOAD the buffer holds the tail of the message that no COMPRESS has taken (I4). -/
theorem inv_payload_iff {s : State} (hp : s.phase = .payload) :
    Inv s ↔ Running s ∧ (s.modeq = .digestOnly → s.ov = false) ∧ s.ol = false ∧
      s.nin.toNat % 64 = s.fill.toNat % 64 ∧ s.fill.toNat ≤ s.nin.toNat := by
  have hb : busy s = true := (busy_iff s).mpr (by simp [hp])
  constructor
  · intro hs
    exact ⟨hs.running hb, fun hm => (hs.i6 hm hb).2, hs.ol_eq_false (by simp [hp]),
      hs.i4_blocks hp, hs.fillLeCount hp⟩
  · rintro ⟨⟨⟨hfill, herr, hcode, hwf, hbuf⟩, hcount, hdone, hsha⟩, hm, hol, hf, hn⟩
    constructor
    · constructor <;> simp_all
    all_goals simp_all

/-- In DIGEST the whole message is in, and the last flag stands with the last byte (I3). -/
theorem inv_digest_iff {s : State} (hp : s.phase = .digest) :
    Inv s ↔ Running s ∧ s.modeq = .frame ∧ s.fill = 0 ∧ s.nin = s.length ∧ s.gpos ≤ 32 ∧
      (s.ol = true → s.ov = true ∧ s.gpos = 32) ∧ (s.gpos = 32 → s.ov = true ∧ s.ol = true) := by
  have hb : busy s = true := (busy_iff s).mpr (by simp [hp])
  constructor
  · intro hs
    exact ⟨hs.running hb, hs.modeq_eq_frame hb (by simp [hp]), hs.fillOutside (by simp [hp]),
      hs.countAfter hp, hs.gposDigest hp, fun h => ⟨(hs.i3 h).1, (hs.i3 h).2.2⟩, hs.lastHeld hp⟩
  · rintro ⟨⟨⟨hfill, herr, hcode, hwf, hbuf⟩, hcount, hdone, hsha⟩, hm, hf, hn, hg, h1, h2⟩
    constructor
    · constructor <;> simp_all
    all_goals simp_all

/-- An empty buffer has no byte that must hold a value. -/
theorem Stored.of_fill_zero {s : State} (hfill : s.fill = 0) (herr : s.err = false → s.errcode = .none)
    (hcode : s.errcode ≠ .invalidInput) (hwf : s.buf.wf = true) : Stored s where
  fillRange := by rw [hfill]; exact Nat.zero_le 64
  errRecord := herr
  neverInvalidInput := hcode
  bufCanonical := hwf
  bufWritten i hi := absurd hi (by rw [hfill]; exact Nat.not_lt_zero i)

/-! ### The invariant under each update of the state -/

/-- The invariant does not look at these ten fields. -/
theorem Inv.of_unread {s t : State} (hs : Inv s)
    (ht : t = { s with
      h := t.h, od := t.od, mode := t.mode, irqEn := t.irqEn, digest := t.digest, events := t.events,
      rdata := t.rdata, message := t.message, delivered := t.delivered, draws := t.draws }) : Inv t := by
  rw [ht]
  exact { hs with }

/-- The flags may change to any error record that R222 and R223 allow, as long as DONE does not rise (I5). -/
theorem Inv.withFlags {s : State} (hs : Inv s) {d e : Bool} {c : ErrCode} (hd : d = true → s.done = true)
    (he : e = false → c = .none) (hc : c ≠ .invalidInput) :
    Inv { s with done := d, err := e, errcode := c } :=
  { hs with
    i5 := fun hb => Bool.of_not_eq_true fun h => Bool.false_ne_true ((hs.i5 hb).symm.trans (hd h))
    errRecord := he
    neverInvalidInput := hc }

theorem inv_abortOp {s : State} (hs : Inv s) : Inv (abortOp s) := by
  cases hb : busy s with
  | false => rwa [abortOp_of_idle hb]
  | true =>
    rw [abortOp_of_busy hb]
    exact (inv_idle_iff rfl).mpr ⟨{ hs.stored with errRecord := nofun, neverInvalidInput := nofun }, rfl, rfl⟩

theorem inv_acceptStart {s : State} (hs : Inv s) (hb : busy s = false) (hc : s.cfg.shaPresent = true) :
    Inv (acceptStart s) := by
  obtain ⟨hst, hov, hol⟩ := (inv_idle_iff ((busy_false_iff s).mp hb)).mp hs
  have hrun : Running (acceptStart s) :=
    { toStored := .of_fill_zero rfl (fun _ => rfl) nofun hst.bufCanonical
      count := Nat.zero_le _
      notDone := rfl
      engine := hc }
  cases hm : s.mode with
  | frame =>
    have hp : (acceptStart s).phase = .preamble := if_pos hm
    exact (inv_generated_iff (.inl hp)).mpr ⟨hrun, hm, hol, rfl, rfl, by rw [if_pos hp]; exact Nat.zero_lt_succ 7⟩
  | digestOnly =>
    have hp : (acceptStart s).phase = .payload := if_neg (by simp [hm])
    exact (inv_payload_iff hp).mpr ⟨hrun, fun _ => hov, hol, rfl, Nat.le_refl 0⟩

theorem inv_startOp {s : State} (hs : Inv s) : Inv (startOp s) := by
  obtain ⟨hb, e⟩ | ⟨hb, -, e⟩ | ⟨hb, hc, e⟩ := startOp_cases s <;> rw [e]
  · exact hs.withFlags id nofun nofun
  · exact hs.withFlags nofun nofun nofun
  · exact inv_acceptStart hs hb hc

/-- Only a running operation's fields are compared with LENGTH. -/
theorem Inv.withLength {s : State} (hs : Inv s) (hb : busy s = false) (v : Word) : Inv { s with length := v } := by
  have hp := (busy_false_iff s).mp hb
  obtain ⟨hst, hov, hol⟩ := (inv_idle_iff hp).mp hs
  exact (inv_idle_iff (s := { s with length := v }) hp).mpr ⟨{ hst with }, hov, hol⟩

theorem inv_resetFor (c : Config) : Inv (State.resetFor c) :=
  (inv_idle_iff rfl).mpr ⟨.of_fill_zero rfl (fun _ => rfl) nofun Buffer.empty_wf, rfl, rfl⟩

/-! ### The invariant under the transfers and the engine's actions -/

theorem inv_inXfer {b : Byte} {s t : State} (hs : Inv s) (h : exec (.inXfer b) s = .next t) : Inv t := by
  obtain ⟨hr, rfl⟩ := execInXfer_eq_next.mp h
  obtain ⟨hp, hnin, hfill, -⟩ := (inReady_iff s).mp hr
  obtain ⟨hrun, hov, hol, hmod, hle⟩ := (inv_payload_iff hp).mp hs
  have hfill' : (s.fill + 1).toNat = s.fill.toNat + 1 := by bv_omega
  have hnin' : (s.nin + 1).toNat = s.nin.toNat + 1 := by bv_omega
  refine (inv_payload_iff (by exact hp)).mpr
    ⟨{ hrun with fillRange := ?_, bufCanonical := ?_, bufWritten := ?_, count := ?_ },
      ?_, ?_, ?_, ?_⟩
  · bv_omega
  · exact s.buf.write_wf b hfill hrun.bufCanonical
  · intro i hi
    simp only [hfill'] at hi
    rw [Buffer.read_write]
    split
    · rfl
    · exact hrun.bufWritten i (by omega)
  · bv_omega
  · intro hm
    replace hm : s.modeq = .digestOnly := hm
    simp [hm, hov hm]
  · simp [hol]
  · simp only [hfill', hnin']
    omega
  · simp only [hfill', hnin']
    omega

theorem inv_outXfer {s t : State} (hs : Inv s) (h : exec .outXfer s = .next t) : Inv t := by
  obtain ⟨hov, rfl⟩ := execOutXfer_eq_next.mp h
  cases hol : s.ol with
  | true => exact (inv_idle_iff rfl).mpr ⟨{ hs.stored with }, rfl, rfl⟩
  | false =>
    exact { hs with
      i2 := fun _ => ⟨rfl, rfl⟩
      i3 := nofun
      i6 := fun hm hb => ⟨(hs.i6 hm hb).1, rfl⟩
      lastHeld := fun hp hg => absurd (hs.lastHeld hp hg).2 (by simp [hol]) }

theorem inv_compress {s t : State} (hs : Inv s) (h : exec .compress s = .next t) : Inv t := by
  obtain ⟨hc, block, -, rfl⟩ := execCompress_eq_next.mp h
  obtain ⟨hp, hfill⟩ := (compressEnabled_iff s).mp hc
  obtain ⟨hrun, hov, hol, hmod, -⟩ := (inv_payload_iff hp).mp hs
  have hst : Stored { s with h := compressBlock s.h block, fill := 0 } :=
    .of_fill_zero rfl hrun.errRecord hrun.neverInvalidInput hrun.bufCanonical
  refine (inv_payload_iff (by exact hp)).mpr ⟨{ hst, hrun with }, hov, hol, ?_, Nat.zero_le _⟩
  simp [hmod, hfill]

theorem inv_finalize {s t : State} (hs : Inv s) (h : exec .finalize s = .next t) : Inv t := by
  obtain ⟨hf, block, -, rfl⟩ := execFinalize_eq_next.mp h
  obtain ⟨hp, hnin, hfill⟩ := (finalizeEnabled_iff s).mp hf
  obtain ⟨hrun, hov, hol, -, -⟩ := (inv_payload_iff hp).mp hs
  have hwf := wf_padBuffer hfill hrun.bufCanonical
  have hst : Stored { s with buf := (padBuffer s).buf, fill := 0 } :=
    .of_fill_zero rfl hrun.errRecord hrun.neverInvalidInput hwf
  cases hm : s.modeq with
  | frame =>
    exact (inv_digest_iff rfl).mpr
      ⟨{ hst, hrun with }, rfl, rfl, hnin, Nat.zero_le 32, fun hl => absurd hl (by simp [hol]), nofun⟩
  | digestOnly => exact (inv_idle_iff rfl).mpr ⟨{ hst with }, hov hm, hol⟩

theorem inv_gen {s t : State} (hs : Inv s) (h : exec .gen s = .next t) : Inv t := by
  obtain ⟨b, -, -, ⟨hp, -, rfl⟩ | ⟨hp, -, rfl⟩ | ⟨hp, rfl⟩ | ⟨hp, hlt, rfl⟩⟩ := execGen_cases h
  · obtain ⟨hrun, hm, -, hfill, hnin, -⟩ := (inv_generated_iff (.inl hp)).mp hs
    exact (inv_generated_iff (.inr rfl)).mpr ⟨{ hrun with }, hm, rfl, hfill, hnin, Nat.zero_lt_succ 3⟩
  · obtain ⟨hrun, hm, -, hfill, hnin, -⟩ := (inv_generated_iff (.inr hp)).mp hs
    exact (inv_payload_iff rfl).mpr ⟨{ hrun with }, by simp [hm], rfl, by simp [hfill, hnin], by simp [hfill]⟩
  · obtain ⟨hrun, hm, -, hfill, hnin, hgpos⟩ := (inv_generated_iff (hp.imp And.left And.left)).mp hs
    refine (inv_generated_iff (by exact hp.imp And.left And.left)).mpr ⟨{ hrun with }, hm, rfl, hfill, hnin, ?_⟩
    obtain ⟨hp, hne⟩ | ⟨hp, hne⟩ := hp <;> simp [hp] at hgpos ⊢ <;> bv_omega
  · obtain ⟨hrun, hm, hfill, hnin, -⟩ := (inv_digest_iff hp).mp hs
    have h31 : s.gpos + 1 = 32 ↔ s.gpos = 31 := by bv_omega
    exact (inv_digest_iff (by exact hp)).mpr ⟨{ hrun with }, hm, hfill, hnin, by bv_omega,
      fun h => ⟨rfl, h31.mpr (of_decide_eq_true h)⟩, fun h => ⟨rfl, decide_eq_true (h31.mp h)⟩⟩

/-! ### The invariant in every reachable state -/

theorem exec_keeps_inv {i : Instr} {s t : State} (hs : Inv s) (h : exec i s = .next t) : Inv t := by
  obtain ⟨-, v, rfl⟩ | rfl | ⟨v, -, -, rfl⟩ | ⟨v, -, -, -, rfl⟩ | ⟨v, -, -, -, rfl⟩ | ⟨v, -, rfl⟩ | ⟨v, -, hb, rfl⟩ |
    ⟨b, rfl⟩ | rfl | rfl | rfl | rfl | ⟨-, rfl⟩ := exec_cases h
  · exact hs.of_unread rfl
  · exact hs
  · exact inv_abortOp (hs.of_unread rfl)
  · exact inv_startOp (hs.of_unread rfl)
  · exact hs.of_unread rfl
  · refine hs.withFlags ?_ ?_ ?_
    · split <;> simp
    · split
      · simp
      · exact hs.errRecord
    · split
      · simp
      · exact hs.neverInvalidInput
  · exact hs.withLength hb v
  · exact inv_inXfer hs h
  · exact inv_outXfer hs h
  · exact inv_gen hs h
  · exact inv_compress hs h
  · exact inv_finalize hs h
  · exact (inv_resetFor s.cfg).of_unread rfl

/-- Settles O14: a step is one event, and each event keeps the invariant. -/
theorem everyStepKeepsTheInvariant : Obligations.EveryStepKeepsTheInvariant := by
  intro s t hs h
  obtain ⟨w, rest, i, -, -, hi⟩ | ⟨-, a, -, ha⟩ | ⟨-, rfl⟩ := step_cases h
  · exact exec_keeps_inv (hs.of_unread rfl) hi
  · exact exec_keeps_inv hs ha
  · exact hs

theorem Reachable.inv {s : State} (h : Reachable s) : Inv s := by
  induction h with
  | reset c => exact inv_resetFor c
  | act i _ hi ih => exact exec_keeps_inv ih hi
  | environment es n _ ih => exact ih.of_unread rfl

/-! ### Reset -/

/-- Settles O12: RESET's next state is `State.resetFor` but for fields the statement does not name. -/
theorem resetLeavesEveryResetValue : Obligations.ResetLeavesEveryResetValue := by
  intro s
  refine ⟨_, rfl, rfl, rfl, rfl, rfl, rfl, rfl, rfl, rfl, rfl, rfl, rfl, rfl, rfl, rfl, rfl, fun _ => rfl, ?_, rfl, rfl,
    rfl, rfl, rfl, fun i hi => ?_⟩
  · exact (show statusWord State.reset = 0 by decide)
  cases i with
  | inXfer | outXfer | gen | compress | finalize => rfl
  | csrRdId | csrRdCtrl | csrRdStatus | csrRdLength | csrRdCount | csrRdCaps | csrRdRsvd | csrRdDigest
  | csrRdUnmappedLow | csrRdUnmappedHigh | csrWrId | csrWrCtrl | csrWrStatus | csrWrLength | csrWrCount | csrWrCaps
  | csrWrRsvd | csrWrDigest | csrWrUnmappedLow | csrWrUnmappedHigh | reset => simp [carriesOn, agentOf] at hi

/-- At reset nothing runs and nothing is done, so `Functional` has nothing to say. -/
theorem functional_resetFor (c : Config) : Functional (State.resetFor c) where
  counted := nofun
  hashed := by rintro (h | h | h) <;> exact nomatch h
  buffered := by rintro (h | h | h) <;> exact nomatch h
  digested := nofun
  framed := nofun
  noLastYet := nofun
  silent := nofun
  doneFrame := nofun
  doneDigest := nofun

/-- Settles O13: `inv_resetFor` and `functional_resetFor`, neither of which looks at `H`. -/
theorem invariantHoldsAtReset : Obligations.InvariantHoldsAtReset := fun c =>
  ⟨inv_resetFor c, functional_resetFor c⟩

/-! ### DIGEST0..7 (R38) -/

theorem abortOp_digest (s : State) : (abortOp s).digest = s.digest := by
  cases hb : busy s with
  | false => rw [abortOp_of_idle hb]
  | true => rw [abortOp_of_busy hb]

theorem startOp_digest (s : State) : (startOp s).digest = s.digest := by
  obtain ⟨-, e⟩ | ⟨-, -, e⟩ | ⟨-, -, e⟩ := startOp_cases s <;> rw [e] <;> rfl

theorem exec_digest {i : Instr} {s t : State} (h : exec i s = .next t) (hf : i ≠ .finalize) (hr : i ≠ .reset) :
    t.digest = s.digest := by
  obtain ⟨-, v, rfl⟩ | rfl | ⟨v, -, -, rfl⟩ | ⟨v, -, -, -, rfl⟩ | ⟨v, -, -, -, rfl⟩ | ⟨v, -, rfl⟩ | ⟨v, -, -, rfl⟩ |
    ⟨b, rfl⟩ | rfl | rfl | rfl | rfl | ⟨rfl, -⟩ := exec_cases h
  · rfl
  · rfl
  · exact abortOp_digest _
  · exact startOp_digest _
  · rfl
  · rfl
  · rfl
  · obtain ⟨-, rfl⟩ := execInXfer_eq_next.mp h
    rfl
  · obtain ⟨-, rfl⟩ := execOutXfer_eq_next.mp h
    rfl
  · obtain ⟨b, -, -, ⟨-, -, rfl⟩ | ⟨-, -, rfl⟩ | ⟨-, rfl⟩ | ⟨-, -, rfl⟩⟩ := execGen_cases h <;> rfl
  · obtain ⟨-, block, -, rfl⟩ := execCompress_eq_next.mp h
    rfl
  · exact absurd rfl hf
  · exact absurd rfl hr

/-- Settles O25: the contrapositive of `exec_digest`. -/
theorem digestChangesOnlyByFinalizeAndReset : Obligations.DigestChangesOnlyByFinalizeAndReset := by
  intro i s t h hne
  by_contra hi
  rw [not_or] at hi
  exact hne (exec_digest h hi.1 hi.2)

/-! ### (I1): what leads to IDLE with a full buffer -/

theorem full_before_abortOp {s : State} (hs : Inv s) (hf : (abortOp s).fill = 64) :
    s.fill = 64 ∧ (s.phase = .idle ∨ s.phase = .payload) := by
  have hfill : s.fill = 64 := by
    cases hb : busy s with
    | false => rwa [abortOp_of_idle hb] at hf
    | true => rwa [abortOp_of_busy hb] at hf
  exact ⟨hfill, (hs.i1_full hfill).symm⟩

theorem idle_full_of_startOp {s : State} (hp : (startOp s).phase = .idle) (hf : (startOp s).fill = 64) :
    s.phase = .idle ∧ s.fill = 64 := by
  obtain ⟨-, e⟩ | ⟨-, -, e⟩ | ⟨-, -, e⟩ := startOp_cases s <;> rw [e] at hp hf
  · exact ⟨hp, hf⟩
  · exact ⟨hp, hf⟩
  · exact absurd hf (show (0 : BitVec 7) ≠ 64 by decide)

theorem idle_full_of_outXfer {s t : State} (hs : Inv s) (h : exec .outXfer s = .next t) (hp : t.phase = .idle)
    (hf : t.fill = 64) : s.phase = .idle ∧ s.fill = 64 := by
  obtain ⟨-, rfl⟩ := execOutXfer_eq_next.mp h
  cases hol : s.ol with
  | false => exact ⟨by simpa [hol] using hp, hf⟩
  | true =>
    have hd : s.phase = .digest := (hs.i3 hol).2.1
    simpa [hd] using hs.i1_full hf

/-- (I1) of R40: a full buffer in IDLE was there before, or ABORT left it. -/
theorem idle_full_of_exec {i : Instr} {s t : State} (hs : Inv s) (h : exec i s = .next t)
    (hp : t.phase = .idle) (hf : t.fill = 64) :
    (s.phase = .idle ∧ s.fill = 64) ∨ (s.phase = .payload ∧ ∃ v, i = .csrWrCtrl v ∧ ctrlAbort v = true) := by
  have hzero : (0 : BitVec 7) ≠ 64 := by decide
  obtain ⟨-, v, rfl⟩ | rfl | ⟨v, rfl, ha, rfl⟩ | ⟨v, -, -, -, rfl⟩ | ⟨v, -, -, -, rfl⟩ | ⟨v, -, rfl⟩ | ⟨v, -, -, rfl⟩ |
    ⟨b, rfl⟩ | rfl | rfl | rfl | rfl | ⟨-, rfl⟩ := exec_cases h
  · exact .inl ⟨hp, hf⟩
  · exact .inl ⟨hp, hf⟩
  · obtain ⟨hfill, hi | hpay⟩ := full_before_abortOp (hs.of_unread rfl) hf
    · exact .inl ⟨hi, hfill⟩
    · exact .inr ⟨hpay, v, rfl, ha⟩
  · have hstart := idle_full_of_startOp hp hf
    exact .inl hstart
  · exact .inl ⟨hp, hf⟩
  · exact .inl ⟨hp, hf⟩
  · exact .inl ⟨hp, hf⟩
  · obtain ⟨hr, rfl⟩ := execInXfer_eq_next.mp h
    exact absurd hp (by simp [((inReady_iff s).mp hr).1])
  · exact .inl (idle_full_of_outXfer hs h hp hf)
  · obtain ⟨b, -, -, ⟨-, -, rfl⟩ | ⟨-, -, rfl⟩ | ⟨h1, rfl⟩ | ⟨h1, -, rfl⟩⟩ := execGen_cases h
    · exact nomatch hp
    · exact nomatch hp
    · exact absurd hp (by obtain ⟨h1, -⟩ | ⟨h1, -⟩ := h1 <;> simp [h1])
    · exact absurd hp (by simp [h1])
  · obtain ⟨-, block, -, rfl⟩ := execCompress_eq_next.mp h
    exact absurd hf hzero
  · obtain ⟨-, block, -, rfl⟩ := execFinalize_eq_next.mp h
    exact absurd hf hzero
  · exact absurd hf hzero

/-- Settles O15: (I1) to (I7) are part of the inductive invariant. -/
theorem reachableStatesMeetTheSpecsInvariants : Obligations.ReachableStatesMeetTheSpecsInvariants :=
  fun _ hs => ⟨hs.inv.toSpecInvariants, fun _ _ => idle_full_of_exec hs.inv⟩

/-! ### What no event reads (R26, R27) -/

/-- The states differ at most in buffer bytes at or beyond `fill` and, while idle, in `H`. -/
structure AgreeOnRead (s s' : State) : Prop where
  others : s' = { s with buf := s'.buf, h := s'.h }
  buf : ∀ j < s.fill.toNat, s'.buf.read j = s.buf.read j
  hash : busy s = true → s'.h = s.h

theorem AgreeOnRead.eq_with {s s' : State} (h : AgreeOnRead s s') :
    ∃ m x, s' = { s with buf := m, h := x } ∧ (∀ j < s.fill.toNat, m.read j = s.buf.read j) ∧
      (busy s = true → x = s.h) :=
  ⟨s'.buf, s'.h, h.others, h.buf, h.hash⟩

theorem agreeOnRead_abortOp {s s' : State} (h : AgreeOnRead s s') : AgreeOnRead (abortOp s) (abortOp s') := by
  obtain ⟨m, x, rfl, hm, hx⟩ := h.eq_with
  cases hb : busy s with
  | false =>
    rw [abortOp_of_idle hb, abortOp_of_idle (by exact hb)]
    exact h
  | true =>
    rw [abortOp_of_busy hb, abortOp_of_busy (by exact hb)]
    exact ⟨rfl, hm, nofun⟩

/-- An accepted START writes the IV and empties the buffer, so it ends the difference. -/
theorem agreeOnRead_startOp {s s' : State} (h : AgreeOnRead s s') : AgreeOnRead (startOp s) (startOp s') := by
  obtain ⟨m, x, rfl, hm, hx⟩ := h.eq_with
  cases hb : busy s with
  | true =>
    rw [startOp_of_busy hb, startOp_of_busy (by exact hb)]
    exact ⟨rfl, hm, hx⟩
  | false =>
    cases hc : s.cfg.shaPresent with
    | false =>
      rw [startOp_of_withoutSha hb hc, startOp_of_withoutSha (by exact hb) (by exact hc)]
      exact ⟨rfl, hm, hx⟩
    | true =>
      rw [startOp_of_accepted hb hc, startOp_of_accepted (by exact hb) (by exact hc)]
      exact ⟨rfl, nofun, fun _ => rfl⟩

theorem agreeOnRead_advanceGen {s s' : State} (h : AgreeOnRead s s') :
    AgreeOnRead (advanceGen s) (advanceGen s') := by
  obtain ⟨m, x, rfl, hm, hx⟩ := h.eq_with
  simp only [advanceGen]
  split
  · next hp => exact ⟨rfl, hm, fun _ => hx ((busy_iff s).mpr (by simp [hp.1]))⟩
  · split
    · next hp => exact ⟨rfl, hm, fun _ => hx ((busy_iff s).mpr (by simp [hp.1]))⟩
    · exact ⟨rfl, hm, hx⟩

theorem agreeOnRead_inXfer {b : Byte} {s s' t : State} (hs : AgreeOnRead s s') (h : exec (.inXfer b) s = .next t) :
    ∃ t', exec (.inXfer b) s' = .next t' ∧ AgreeOnRead t t' := by
  obtain ⟨m, x, rfl, hm, hx⟩ := hs.eq_with
  obtain ⟨hr, rfl⟩ := execInXfer_eq_next.mp h
  obtain ⟨-, -, hfill, -⟩ := (inReady_iff s).mp hr
  refine ⟨_, execInXfer_eq_next.mpr ⟨hr, rfl⟩, rfl, fun j hj => ?_, hx⟩
  have hj' : j < s.fill.toNat + 1 := by
    have e : (s.fill + 1).toNat = s.fill.toNat + 1 := by bv_omega
    exact e ▸ hj
  simp only [Buffer.read_write]
  split
  · rfl
  · exact hm j (by omega)

theorem agreeOnRead_outXfer {s s' t : State} (hs : AgreeOnRead s s') (h : exec .outXfer s = .next t) :
    ∃ t', exec .outXfer s' = .next t' ∧ AgreeOnRead t t' := by
  obtain ⟨m, x, rfl, hm, hx⟩ := hs.eq_with
  obtain ⟨hov, rfl⟩ := execOutXfer_eq_next.mp h
  refine ⟨_, execOutXfer_eq_next.mpr ⟨hov, rfl⟩, rfl, hm, ?_⟩
  cases hol : s.ol with
  | false => exact hx
  | true => exact nofun

theorem agreeOnRead_gen {s s' t : State} (hs : AgreeOnRead s s') (h : exec .gen s = .next t) :
    ∃ t', exec .gen s' = .next t' ∧ AgreeOnRead t t' := by
  obtain ⟨m, x, rfl, hm, hx⟩ := hs.eq_with
  obtain ⟨hg, b, hb, rfl⟩ := execGen_eq_next.mp h
  exact ⟨_, execGen_eq_next.mpr ⟨hg, b, hb, rfl⟩, agreeOnRead_advanceGen ⟨rfl, hm, hx⟩⟩

theorem agreeOnRead_compress {s s' t : State} (hs : AgreeOnRead s s') (h : exec .compress s = .next t) :
    ∃ t', exec .compress s' = .next t' ∧ AgreeOnRead t t' := by
  obtain ⟨m, x, rfl, hm, hx⟩ := hs.eq_with
  obtain ⟨hc, block, hblock, rfl⟩ := execCompress_eq_next.mp h
  obtain ⟨hp, hfill⟩ := (compressEnabled_iff s).mp hc
  obtain rfl : x = s.h := hx ((busy_iff s).mpr (by simp [hp]))
  have hread : m.readBytes 0 64 = some block := by
    rw [← hblock]
    exact Buffer.readBytes_congr fun j hj => hm j (by rw [hfill]; exact hj)
  exact ⟨_, execCompress_eq_next.mpr ⟨hc, block, hread, rfl⟩, rfl, nofun, fun _ => rfl⟩

theorem agreeOnRead_finalize {s s' t : State} (hs : AgreeOnRead s s') (h : exec .finalize s = .next t) :
    ∃ t', exec .finalize s' = .next t' ∧ AgreeOnRead t t' := by
  obtain ⟨m, x, rfl, hm, hx⟩ := hs.eq_with
  obtain ⟨hf, block, hblock, rfl⟩ := execFinalize_eq_next.mp h
  obtain ⟨hp, -, hfill⟩ := (finalizeEnabled_iff s).mp hf
  obtain rfl : x = s.h := hx ((busy_iff s).mpr (by simp [hp]))
  have hread : (padBuffer { s with buf := m, h := s.h }).buf.readBytes 0 64 = some block := by
    rw [padBuffer_buf] at hblock ⊢
    rw [← hblock]
    refine Buffer.readBytes_congr fun j hj => Buffer.read_writeBytes_congr (padding s) hm j ?_
    have hlen := padding_length hfill
    omega
  exact ⟨_, execFinalize_eq_next.mpr ⟨hf, block, hread, rfl⟩, rfl, nofun, fun _ => rfl⟩

theorem agreeOnRead_exec {i : Instr} {s s' t : State} (hs : AgreeOnRead s s') (h : exec i s = .next t) :
    ∃ t', exec i s' = .next t' ∧ AgreeOnRead t t' := by
  obtain ⟨m, x, rfl, hm, hx⟩ := hs.eq_with
  cases i with
  | inXfer b => exact agreeOnRead_inXfer hs h
  | outXfer => exact agreeOnRead_outXfer hs h
  | gen => exact agreeOnRead_gen hs h
  | compress => exact agreeOnRead_compress hs h
  | finalize => exact agreeOnRead_finalize hs h
  | reset =>
    obtain rfl := Host.Outcome.next.inj h
    exact ⟨_, rfl, rfl, nofun, nofun⟩
  | csrWrCtrl v =>
    obtain rfl := Host.Outcome.next.inj h
    refine ⟨_, rfl, ?_⟩
    have hs1 : AgreeOnRead { s with mode := ctrlMode v, irqEn := ctrlIrqEn v }
        { s with buf := m, h := x, mode := ctrlMode v, irqEn := ctrlIrqEn v } := ⟨rfl, hm, hx⟩
    dsimp only
    split
    · exact agreeOnRead_abortOp hs1
    · split
      · exact agreeOnRead_startOp hs1
      · exact hs1
  | csrWrStatus v =>
    rw [exec_csrWrStatus] at h
    obtain rfl := Host.Outcome.next.inj h
    exact ⟨_, exec_csrWrStatus v _, rfl, hm, hx⟩
  | csrWrLength v =>
    rw [exec_csrWrLength] at h
    obtain rfl := Host.Outcome.next.inj h
    exact ⟨_, exec_csrWrLength v _, rfl, hm, hx⟩
  | csrRdId | csrRdCtrl | csrRdStatus | csrRdLength | csrRdCount | csrRdCaps | csrRdRsvd | csrRdDigest
  | csrRdUnmappedLow | csrRdUnmappedHigh | csrWrId | csrWrCount | csrWrCaps | csrWrRsvd | csrWrDigest
  | csrWrUnmappedLow | csrWrUnmappedHigh =>
    obtain rfl := Host.Outcome.next.inj h
    exact ⟨_, rfl, rfl, hm, hx⟩

/-- Settles O24: agreement on what is read is a simulation, event by event (`agreeOnRead_exec`). -/
theorem unwrittenBufferAndIdleHashNeverMatter : Obligations.UnwrittenBufferAndIdleHashNeverMatter := by
  intro i s t m x hm hx h
  have hs : AgreeOnRead s { s with buf := m, h := x } := ⟨rfl, hm, hx⟩
  obtain ⟨t', ht, hothers, hbuf, hhash⟩ := agreeOnRead_exec hs h
  exact ⟨t', ht, hothers, hbuf, hhash⟩

/-! ### BUSY, DONE and ERR (R39) -/

/-- The flags of STATUS (R33): BUSY, DONE, ERR and ERRCODE. -/
structure Flags where
  busy : Bool
  done : Bool
  err : Bool
  errcode : ErrCode

/-- The flags as STATUS shows them (R33). -/
def flagsOf (s : State) : Flags := ⟨busy s, s.done, s.err, s.errcode⟩

theorem flagsOf_acceptStart (s : State) : flagsOf (acceptStart s) = ⟨true, false, false, .none⟩ := by
  cases hm : s.mode <;> simp [flagsOf, acceptStart, busy, hm]

/-- What an event does to the flags, rule by rule (R39). -/
inductive FlagChange (s t : State) : Instr → Prop where
  | kept (i : Instr) (e : flagsOf t = flagsOf s) : FlagChange s t i
  | lastByte (hl : s.ol = true) (e : flagsOf t = { flagsOf s with busy := false, done := true }) :
      FlagChange s t .outXfer
  | digestOnlyEnd (hm : s.modeq = .digestOnly) (e : flagsOf t = { flagsOf s with busy := false, done := true }) :
      FlagChange s t .finalize
  | abort (v : Word) (ha : ctrlAbort v = true) (hb : busy s = true)
      (e : flagsOf t = { flagsOf s with busy := false, err := true, errcode := .aborted }) :
      FlagChange s t (.csrWrCtrl v)
  | startBusy (v : Word) (ha : ctrlAbort v = false) (hst : ctrlStart v = true) (hb : busy s = true)
      (e : flagsOf t = { flagsOf s with err := true, errcode := .busyStart }) : FlagChange s t (.csrWrCtrl v)
  | startWithoutSha (v : Word) (ha : ctrlAbort v = false) (hst : ctrlStart v = true) (hb : busy s = false)
      (hc : s.cfg.shaPresent = false) (e : flagsOf t = ⟨false, false, true, .digestUnavailable⟩) :
      FlagChange s t (.csrWrCtrl v)
  | startAccepted (v : Word) (ha : ctrlAbort v = false) (hst : ctrlStart v = true) (hb : busy s = false)
      (hc : s.cfg.shaPresent = true) (e : flagsOf t = ⟨true, false, false, .none⟩) : FlagChange s t (.csrWrCtrl v)
  | statusWrite (v : Word)
      (e : flagsOf t = { flagsOf s with
        done := if statusClearDone v then false else s.done
        err := if statusClearErr v then false else s.err
        errcode := if statusClearErr v then .none else s.errcode }) : FlagChange s t (.csrWrStatus v)
  | reset (e : flagsOf t = ⟨false, false, false, .none⟩) : FlagChange s t .reset

/-- START while busy, while idle without the engine, and accepted (R188). -/
theorem flagChange_startOp {s : State} {v : Word} (ha : ctrlAbort v = false) (hst : ctrlStart v = true) :
    FlagChange s (startOp { s with mode := ctrlMode v, irqEn := ctrlIrqEn v }) (.csrWrCtrl v) := by
  obtain ⟨hb, e⟩ | ⟨hb, hc, e⟩ | ⟨hb, hc, e⟩ := startOp_cases { s with mode := ctrlMode v, irqEn := ctrlIrqEn v } <;>
    rw [e]
  · exact .startBusy v ha hst hb rfl
  · exact .startWithoutSha v ha hst hb hc (congrArg (Flags.mk · false true .digestUnavailable) hb)
  · exact .startAccepted v ha hst hb hc (flagsOf_acceptStart _)

/-- Every event that answers a next state changes the flags by one of those rules, or keeps them. -/
theorem exec_flagChange {i : Instr} {s t : State} (h : exec i s = .next t) : FlagChange s t i := by
  obtain ⟨-, v, rfl⟩ | rfl | ⟨v, rfl, ha, rfl⟩ | ⟨v, rfl, ha, hst, rfl⟩ | ⟨v, -, -, -, rfl⟩ | ⟨v, rfl, rfl⟩ |
    ⟨v, -, -, rfl⟩ | ⟨b, rfl⟩ | rfl | rfl | rfl | rfl | ⟨rfl, rfl⟩ := exec_cases h
  · exact .kept _ rfl
  · exact .kept _ rfl
  · cases hb : busy s with
    | false =>
      rw [abortOp_of_idle (by exact hb)]
      exact .kept _ rfl
    | true =>
      rw [abortOp_of_busy (by exact hb)]
      exact .abort v ha hb rfl
  · exact flagChange_startOp ha hst
  · exact .kept _ rfl
  · exact .statusWrite v rfl
  · exact .kept _ rfl
  · obtain ⟨-, rfl⟩ := execInXfer_eq_next.mp h
    exact .kept _ rfl
  · obtain ⟨-, rfl⟩ := execOutXfer_eq_next.mp h
    cases hl : s.ol with
    | false => exact .kept _ rfl
    | true => exact .lastByte hl rfl
  · obtain ⟨b, -, -, ⟨hp, -, rfl⟩ | ⟨hp, -, rfl⟩ | ⟨-, rfl⟩ | ⟨-, -, rfl⟩⟩ := execGen_cases h
    · exact .kept _ (by simp [flagsOf, busy, hp])
    · exact .kept _ (by simp [flagsOf, busy, hp])
    · exact .kept _ rfl
    · exact .kept _ rfl
  · obtain ⟨-, block, -, rfl⟩ := execCompress_eq_next.mp h
    exact .kept _ rfl
  · obtain ⟨hf, block, -, rfl⟩ := execFinalize_eq_next.mp h
    obtain ⟨hp, -, -⟩ := (finalizeEnabled_iff s).mp hf
    cases hm : s.modeq with
    | frame => exact .kept _ (by simp [flagsOf, busy, hp])
    | digestOnly => exact .digestOnlyEnd hm rfl
  · exact .reset rfl

/-- Settles O48: the six clauses are read off from what each rule does to the flags. -/
theorem flagsChangeOnlyAsListed : Obligations.FlagsChangeOnlyAsListed := by
  intro i s t _ h
  cases exec_flagChange h <;> simp_all [flagsOf, statusClearDone, statusClearErr]

end Sys2Proof.Machine
end

section
/-! The memory family (spec/20_memory.md R60 to R75): what has been computed and delivered, the order of the actions in
a run and in a clock cycle, and the configuration of a running operation. -/

namespace Sys2Proof.Machine

/-! ### The bytes of words and digests -/

@[simp] theorem preamble_length : preamble.length = 8 := rfl

@[simp] theorem be32_length (v : Word) : (be32 v).length = 4 := rfl

@[simp] theorem hashBytes_length (x : Hash) : x.bytes.length = 32 := rfl

theorem be32_getElem? (v : Word) {j : Nat} (hj : j < 4) : (be32 v)[j]? = some (byteOfWord v j) := by
  interval_cases j <;> rfl

/-- Digest byte `j` is byte `j` of the eight words laid end to end (R62). -/
theorem hashBytes_getElem? (x : Hash) {j : Nat} (hj : j < 32) : x.bytes[j]? = some (digestByte x j) := by
  interval_cases j <;> rfl

/-! ### Hashing a byte sequence piece by piece (R113) -/

theorem blocksOf_append {n : Nat} (m : Nat) {xs : List Byte} (ys : List Byte) (h : xs.length = 64 * n) :
    blocksOf (n + m) (xs ++ ys) = blocksOf n xs ++ blocksOf m ys := by
  induction n generalizing xs with
  | zero =>
    obtain rfl := List.length_eq_zero_iff.mp h
    simp [blocksOf]
  | succ n ih =>
    have htake : (xs ++ ys).take 64 = xs.take 64 := List.take_append_of_le_length (by omega)
    have hdrop : (xs ++ ys).drop 64 = xs.drop 64 ++ ys := List.drop_append_of_le_length (by omega)
    rw [Nat.succ_add, blocksOf, blocksOf, htake, hdrop, ih (by rw [List.length_drop]; omega), List.cons_append]

theorem hashBlocks_append (x : Hash) {xs : List Byte} (ys : List Byte) (h : 64 ∣ xs.length) :
    hashBlocks x (xs ++ ys) = hashBlocks (hashBlocks x xs) ys := by
  obtain ⟨n, hn⟩ := h
  have hlen : (xs ++ ys).length / 64 = n + ys.length / 64 := by rw [List.length_append]; omega
  have hxs : xs.length / 64 = n := by omega
  rw [hashBlocks, hlen, blocksOf_append _ ys hn, List.foldl_append, hashBlocks, hashBlocks, hxs]

theorem hashBlocks_nil (x : Hash) : hashBlocks x [] = x := rfl

theorem hashBlocks_block (x : Hash) {block : List Byte} (h : block.length = 64) :
    hashBlocks x block = compressBlock x block := by
  simp [hashBlocks, h, blocksOf, List.take_of_length_le h.le]

/-! ### FINALIZE's padding is the message's (R110, R121) -/

/-- What FINALIZE compresses after the padded buffer: a second block, if the bit length did not fit in the first. -/
def secondBlock (s : State) : List Byte :=
  if s.fill.toNat ≤ 55 then [] else zeros 56 ++ bitLengthBytes s.length

theorem finalHash_eq_hashBlocks (s : State) {block : List Byte} (h : block.length = 64) :
    finalHash block s = hashBlocks s.h (block ++ secondBlock s) := by
  rw [hashBlocks_append _ _ (by rw [h]), hashBlocks_block _ h, finalHash, secondBlock]
  split
  · rw [hashBlocks_nil]
  · rw [hashBlocks_block _ (by simp)]

theorem bitLengthBytes_eq (v : Word) : bitLengthBytes v = be64 (BitVec.ofNat 64 (8 * v.toNat)) := by
  have hbits : 8 * v.setWidth 64 = BitVec.ofNat 64 (8 * v.toNat) := by bv_omega
  rw [bitLengthBytes, hbits]

theorem zeros_add (a b : Nat) : zeros (a + b) = zeros a ++ zeros b := List.replicate_add a b 0

/-- For a message of LENGTH bytes whose last `fill` are in the buffer, `pad(M)` is what FINALIZE compresses. -/
theorem pad_eq_append_padding {s : State} {m : List Byte} (hlen : m.length = s.length.toNat)
    (hfill : m.length % 64 = s.fill.toNat) : pad m = m ++ padding s ++ secondBlock s := by
  rw [pad, hlen, ← bitLengthBytes_eq, ← hlen, padZeros, hfill, padding, secondBlock]
  split
  · next h =>
    rw [show (119 - s.fill.toNat) % 64 = 55 - s.fill.toNat by omega]
    simp
  · next h =>
    rw [show (119 - s.fill.toNat) % 64 = (63 - s.fill.toNat) + 56 by omega, zeros_add]
    simp

/-- Bytes written after `n` bytes that can be read are read after them. -/
theorem Buffer.readBytes_writeBytes {m : Buffer} {n : Nat} {xs : List Byte} (bs : List Byte)
    (h : m.readBytes 0 n = some xs) : (m.writeBytes n bs).readBytes 0 (n + bs.length) = some (xs ++ bs) := by
  obtain ⟨hlen, hread⟩ := (m.readBytes_eq_some 0 n xs).mp h
  refine (Buffer.readBytes_eq_some _ _ _ _).mpr ⟨by simp [hlen], fun j hj => ?_⟩
  rw [Nat.zero_add, Buffer.read_writeBytes, List.getElem?_append, hlen]
  split
  · rw [if_neg (by omega)]
  · rw [if_pos (by omega), ← hread j (by omega), Nat.zero_add]

/-- The block FINALIZE reads is the unhashed tail of the message and the padding. -/
theorem readBytes_padBuffer {s : State} {tail : List Byte} (hfill : s.fill < 64)
    (h : s.buf.readBytes 0 s.fill.toNat = some tail) :
    (padBuffer s).buf.readBytes 0 64 = some (tail ++ padding s) := by
  have hread := Buffer.readBytes_writeBytes (padding s) h
  rwa [padding_length hfill, ← padBuffer_buf] at hread

/-! ### The frame's bytes (R140, R147) -/

theorem withLast_append_singleton (bs : List Byte) (b : Byte) :
    withLast (bs ++ [b]) = bs.map (·, false) ++ [(b, true)] := by
  induction bs using withLast.induct with
  | case1 => rfl
  | case2 c => rfl
  | case3 c d rest ih => exact congrArg ((c, false) :: ·) ih

/-- Bytes delivered with no last mark, and then one with it. -/
theorem append_last_eq_withLast {ps : List (Byte × Bool)} (b : Byte) (h : ∀ p ∈ ps, p.2 = false) :
    ps ++ [(b, true)] = withLast (ps.map Prod.fst ++ [b]) := by
  have hps : (ps.map Prod.fst).map (·, false) = ps := by
    rw [List.map_map]
    exact (List.map_congr_left (g := id) fun p hp => show (p.1, false) = p by rw [← h p hp]).trans ps.map_id
  rw [withLast_append_singleton, hps]

theorem produced_of_held {s : State} (h : s.ov = true) : produced s = s.delivered.map Prod.fst ++ [s.od] := by
  simp [produced, h]

theorem produced_of_empty {s : State} (h : s.ov = false) : produced s = s.delivered.map Prod.fst := by
  simp [produced, h]

/-- A message's frame, for a message of LENGTH bytes. -/
theorem frame_of_length {s : State} {m : List Byte} (hlen : m.length = s.length.toNat) :
    frame m = preamble ++ be32 s.length ++ m ++ sha256 m := by
  rw [frame, lengthField, hlen, BitVec.ofNat_toNat, BitVec.setWidth_eq]

/-! ### What `Functional` says, phase by phase -/

/-- What it says of a running operation in each of its phases. -/
structure Progress (s : State) : Prop where
  counted : s.message.length = s.nin.toNat
  framed : s.modeq = .frame → produced s = expectedBytes s
  noLastYet : ∀ p ∈ s.delivered, p.2 = false
  silent : s.modeq = .digestOnly → s.delivered = []

/-- What it says besides before DIGEST: `H` has the whole blocks of the message, `buf` the rest. -/
structure Hashing (s : State) : Prop where
  hashed : s.h = hashBlocks iv (s.message.take (s.nin.toNat - s.fill.toNat))
  buffered : s.buf.readBytes 0 s.fill.toNat = some (s.message.drop (s.nin.toNat - s.fill.toNat))

theorem Functional.progress {s : State} (hs : Functional s) (hb : busy s = true) : Progress s :=
  ⟨hs.counted hb, fun hm => hs.framed hm hb, hs.noLastYet hb, hs.silent⟩

theorem Functional.hashing {s : State} (hs : Functional s) (hp : beforeDigest s) : Hashing s :=
  ⟨hs.hashed hp, hs.buffered hp⟩

theorem functional_idle_iff {s : State} (hp : s.phase = .idle) :
    Functional s ↔ (s.modeq = .digestOnly → s.delivered = []) ∧
      (s.done = true → s.modeq = .frame → s.delivered = withLast (frame s.message)) ∧
      (s.done = true → s.digest = sha256Hash s.message) := by
  have hb : busy s ≠ true := by simp [busy, hp]
  have hbefore : ¬ beforeDigest s := by simp [beforeDigest, hp]
  constructor
  · exact fun hs => ⟨hs.silent, hs.doneFrame, hs.doneDigest⟩
  · rintro ⟨hsilent, hframe, hdigest⟩
    exact ⟨fun h => absurd h hb, fun h => absurd h hbefore, fun h => absurd h hbefore, by simp [hp],
      fun _ h => absurd h hb, fun h => absurd h hb, hsilent, hframe, hdigest⟩

/-- A running operation has no result yet that DONE could stand for. -/
theorem Functional.of_running {s : State} (hd : s.done = false) (hprog : Progress s)
    (hhash : beforeDigest s → Hashing s) (hdigest : s.phase = .digest → s.digest = sha256Hash s.message) :
    Functional s where
  counted _ := hprog.counted
  hashed hp := (hhash hp).hashed
  buffered hp := (hhash hp).buffered
  digested := hdigest
  framed hm _ := hprog.framed hm
  noLastYet _ := hprog.noLastYet
  silent := hprog.silent
  doneFrame h := absurd h (by simp [hd])
  doneDigest h := absurd h (by simp [hd])

theorem Functional.of_beforeDigest {s : State} (hp : beforeDigest s) (hd : s.done = false) (hprog : Progress s)
    (hhash : Hashing s) : Functional s :=
  .of_running hd hprog (fun _ => hhash) fun h => by simp [beforeDigest, h] at hp

theorem Functional.of_digest {s : State} (hp : s.phase = .digest) (hd : s.done = false) (hprog : Progress s)
    (hdigest : s.digest = sha256Hash s.message) : Functional s :=
  .of_running hd hprog (fun h => by simp [beforeDigest, hp] at h) fun _ => hdigest

/-! ### `Functional` under the host's events -/

/-- `Functional` does not look at these eight fields. -/
theorem Functional.of_unread {s t : State} (hs : Functional s)
    (ht : t = { s with
      cfg := t.cfg, mode := t.mode, irqEn := t.irqEn, err := t.err, errcode := t.errcode, events := t.events,
      rdata := t.rdata, draws := t.draws }) : Functional t := by
  rw [ht]
  exact { hs with }

theorem Functional.withDone {s : State} (hs : Functional s) {d : Bool} (hd : d = true → s.done = true) :
    Functional { s with done := d } :=
  { hs with
    doneFrame := fun h => hs.doneFrame (hd h)
    doneDigest := fun h => hs.doneDigest (hd h) }

theorem functional_abortOp {s : State} (hi : Inv s) (hs : Functional s) : Functional (abortOp s) := by
  cases hb : busy s with
  | false => rwa [abortOp_of_idle hb]
  | true =>
    have hd : s.done ≠ true := by simp [hi.i5 hb]
    rw [abortOp_of_busy hb]
    exact (functional_idle_iff rfl).mpr ⟨hs.silent, fun h => absurd h hd, fun h => absurd h hd⟩

/-- An accepted START begins a message with nothing in it, nothing delivered and nothing held. -/
theorem functional_acceptStart {s : State} (hi : Inv s) (hb : busy s = false) : Functional (acceptStart s) := by
  have hov : (acceptStart s).ov = false := (hi.i2 ((busy_false_iff s).mp hb)).1
  have hp : beforeDigest (acceptStart s) := by
    cases hm : s.mode <;> simp [beforeDigest, hm]
  refine .of_beforeDigest hp rfl ⟨rfl, fun hm => ?_, nofun, fun _ => rfl⟩ ⟨(hashBlocks_nil iv).symm, rfl⟩
  rw [produced_of_empty hov]
  simp [expectedBytes, show s.mode = .frame from hm]

theorem functional_startOp {s : State} (hi : Inv s) (hs : Functional s) : Functional (startOp s) := by
  obtain ⟨-, e⟩ | ⟨-, -, e⟩ | ⟨hb, -, e⟩ := startOp_cases s <;> rw [e]
  · exact hs.of_unread rfl
  · exact (hs.withDone (d := false) nofun).of_unread rfl
  · exact functional_acceptStart hi hb

/-- LENGTH is part of an operation's frame only while it runs. -/
theorem Functional.withLength {s : State} (hs : Functional s) (hb : busy s = false) (v : Word) :
    Functional { s with length := v } :=
  (functional_idle_iff (s := { s with length := v }) ((busy_false_iff s).mp hb)).mpr
    ⟨hs.silent, hs.doneFrame, hs.doneDigest⟩

/-! ### `Functional` under the transfers -/

theorem functional_inXfer {b : Byte} {s t : State} (hi : Inv s) (hs : Functional s)
    (h : exec (.inXfer b) s = .next t) : Functional t := by
  obtain ⟨hr, rfl⟩ := execInXfer_eq_next.mp h
  obtain ⟨hp, hnin, hfill, hmode⟩ := (inReady_iff s).mp hr
  have hb : busy s = true := (busy_iff s).mpr (by simp [hp])
  have hle := hi.fillLeCount hp
  obtain ⟨hcount, hframed, hlast, hsilent⟩ := hs.progress hb
  obtain ⟨hhash, hbuf⟩ := hs.hashing (.inr (.inr hp))
  have hfill' : (s.fill + 1).toNat = s.fill.toNat + 1 := by bv_omega
  have hnin' : (s.nin + 1).toNat = s.nin.toNat + 1 := by bv_omega
  have hrest : (s.nin + 1).toNat - (s.fill + 1).toNat = s.nin.toNat - s.fill.toNat := by omega
  refine .of_beforeDigest (.inr (.inr hp)) (hi.i5 hb) ⟨?_, fun hm => ?_, hlast, hsilent⟩ ⟨?_, ?_⟩
  · rw [hnin', List.length_append, hcount, List.length_singleton]
  · replace hm : s.modeq = .frame := hm
    have hov : s.ov = false := by simpa [hm] using hmode
    have hsofar := hframed hm
    simp only [produced_of_empty hov, expectedBytes, hp] at hsofar
    simp [produced, expectedBytes, hp, hm, hsofar]
  · rw [hhash, hrest, List.take_append_of_le_length (by omega)]
  · rw [hrest, hfill', List.drop_append_of_le_length (by omega)]
    exact Buffer.readBytes_writeBytes [b] hbuf

/-- The last byte's delivery completes the frame (R147). -/
theorem functional_outXfer {s t : State} (hi : Inv s) (hs : Functional s) (h : exec .outXfer s = .next t) :
    Functional t := by
  obtain ⟨hov, rfl⟩ := execOutXfer_eq_next.mp h
  have hb : busy s = true := (busy_iff s).mpr fun hp => by simpa [hov] using hi.i2 hp
  have hm : s.modeq = .frame := by
    cases hm : s.modeq with
    | frame => rfl
    | digestOnly => simpa [hov] using hi.i6 hm hb
  have hd : s.done ≠ true := by simp [hi.i5 hb]
  have hprog := hs.progress hb
  have hsofar := produced_of_held hov ▸ hprog.framed hm
  cases hol : s.ol with
  | false =>
    exact { hs with
      framed := fun _ _ => by simpa [produced, expectedBytes] using hsofar
      noLastYet := fun _ => List.forall_mem_append.mpr ⟨hprog.noLastYet, by simp⟩
      silent := fun h => absurd (hm.symm.trans h) nofun
      doneFrame := fun h => absurd h hd }
  | true =>
    obtain ⟨-, hp, hg⟩ := hi.i3 hol
    have hdigest := hs.digested hp
    have hlen : s.message.length = s.length.toNat := by rw [hprog.counted, hi.countAfter hp]
    have hall : s.delivered.map Prod.fst ++ [s.od] = frame s.message := by
      rw [hsofar, frame_of_length hlen, sha256, ← hdigest]
      simp [expectedBytes, hp, hg]
    refine (functional_idle_iff rfl).mpr ⟨?_, fun _ _ => ?_, fun _ => hdigest⟩
    · simp [hm]
    · rw [← hall]
      exact append_last_eq_withLast s.od hprog.noLastYet

/-! ### `Functional` under the engine's actions -/

/-- GEN takes its byte from the field of the frame its phase stands for, at `gpos` (R143, R145). -/
theorem generatedByte_eq_some {s : State} {b : Byte} (h : generatedByte s = some b) :
    (s.phase = .preamble → preamble[s.gpos.toNat]? = some b) ∧
    (s.phase = .length → (be32 s.length)[s.gpos.toNat]? = some b) ∧
    (s.phase = .digest → s.digest.bytes[s.gpos.toNat]? = some b) := by
  unfold generatedByte at h
  refine ⟨fun hp => ?_, fun hp => ?_, fun hp => ?_⟩ <;> simp only [hp] at h
  · exact h
  · split at h
    · next hg => rw [be32_getElem? _ hg, h]
    · exact nomatch h
  · split at h
    · next hg => rw [hashBytes_getElem? _ hg, h]
    · exact nomatch h

theorem take_succ_of_getElem? {bs : List Byte} {i : Nat} {b : Byte} (h : bs[i]? = some b) :
    bs.take (i + 1) = bs.take i ++ [b] := by
  rw [List.take_add_one, h, Option.toList_some]

theorem eq_take_append_of_getElem? {bs : List Byte} {i : Nat} {b : Byte} (h : bs[i]? = some b)
    (hlast : i + 1 = bs.length) : bs = bs.take i ++ [b] := by
  rw [← take_succ_of_getElem? h, hlast, List.take_length]

/-- The byte GEN holds is the next one of the frame. -/
theorem expectedBytes_gen {s t : State} (hi : Inv s) (hcount : s.message.length = s.nin.toNat)
    (h : exec .gen s = .next t) : expectedBytes t = expectedBytes s ++ [t.od] := by
  obtain ⟨b, hb, -, hcases⟩ := execGen_cases h
  obtain ⟨hpre, hlen, hdig⟩ := generatedByte_eq_some hb
  obtain ⟨hp, hg, rfl⟩ | ⟨hp, hg, rfl⟩ | ⟨⟨hp, -⟩ | ⟨hp, -⟩, rfl⟩ | ⟨hp, hlt, rfl⟩ := hcases
  · have hlast : s.gpos.toNat + 1 = preamble.length := by rw [preamble_length]; bv_omega
    simpa [expectedBytes, hp] using eq_take_append_of_getElem? (hpre hp) hlast
  · have hmsg : s.message = [] := by
      rw [← List.length_eq_zero_iff, hcount, hi.countBefore (.inr hp)]
      rfl
    have hlast : s.gpos.toNat + 1 = (be32 s.length).length := by rw [be32_length]; bv_omega
    simpa [expectedBytes, hp, hmsg] using eq_take_append_of_getElem? (hlen hp) hlast
  · have hg : (s.gpos + 1).toNat = s.gpos.toNat + 1 := by have := hi.gposPreamble hp; bv_omega
    simp only [expectedBytes, hp, hg, take_succ_of_getElem? (hpre hp)]
  · have hg : (s.gpos + 1).toNat = s.gpos.toNat + 1 := by have := hi.gposLength hp; bv_omega
    simp only [expectedBytes, hp, hg, take_succ_of_getElem? (hlen hp), List.append_assoc]
  · have hg : (s.gpos + 1).toNat = s.gpos.toNat + 1 := by bv_omega
    simp only [expectedBytes, hp, hg, take_succ_of_getElem? (hdig hp), List.append_assoc]

/-- GEN writes the holding register and its own place in the frame only. -/
theorem gen_frame {s t : State} (h : exec .gen s = .next t) :
    ∃ b last p g, t = { s with od := b, ov := true, ol := last, phase := p, gpos := g } ∧
      (beforeDigest s ∧ beforeDigest t ∨ s.phase = .digest ∧ t.phase = .digest) := by
  obtain ⟨b, -, -, ⟨hp, -, rfl⟩ | ⟨hp, -, rfl⟩ | ⟨hp, rfl⟩ | ⟨hp, -, rfl⟩⟩ := execGen_cases h
  · exact ⟨_, _, _, _, rfl, .inl ⟨.inl hp, .inr (.inl rfl)⟩⟩
  · exact ⟨_, _, _, _, rfl, .inl ⟨.inr (.inl hp), .inr (.inr rfl)⟩⟩
  · have hb : beforeDigest s := hp.imp And.left fun hp => .inl hp.1
    exact ⟨_, _, _, _, rfl, .inl ⟨hb, hb⟩⟩
  · exact ⟨_, _, _, _, rfl, .inr ⟨hp, hp⟩⟩

theorem busy_of_beforeDigest {s : State} (h : beforeDigest s) : busy s = true := by
  obtain hp | hp | hp := h <;> simp [busy, hp]

theorem functional_gen {s t : State} (hi : Inv s) (hs : Functional s) (h : exec .gen s = .next t) : Functional t := by
  obtain ⟨-, -, hov, -⟩ := execGen_cases h
  obtain ⟨b, last, p, g, rfl, hphase⟩ := gen_frame h
  have hb : busy s = true :=
    hphase.elim (fun hp => busy_of_beforeDigest hp.1) fun hp => (busy_iff s).mpr (by simp [hp.1])
  obtain ⟨hcount, hframed, hlast, hsilent⟩ := hs.progress hb
  have hprog : Progress { s with od := b, ov := true, ol := last, phase := p, gpos := g } :=
    ⟨hcount, fun hm => by rw [expectedBytes_gen hi hcount h, ← hframed hm, produced_of_empty hov]; rfl, hlast, hsilent⟩
  obtain ⟨hp, hp'⟩ | ⟨hp, hp'⟩ := hphase
  · exact .of_beforeDigest hp' (hi.i5 hb) hprog { hs.hashing hp with }
  · exact .of_digest hp' (hi.i5 hb) hprog (hs.digested hp)

/-- COMPRESS moves a whole block from the buffer's part of the message to the hash's. -/
theorem functional_compress {s t : State} (hi : Inv s) (hs : Functional s) (h : exec .compress s = .next t) :
    Functional t := by
  obtain ⟨hc, block, hblock, rfl⟩ := execCompress_eq_next.mp h
  obtain ⟨hp, hfill⟩ := (compressEnabled_iff s).mp hc
  have hb : busy s = true := (busy_iff s).mpr (by simp [hp])
  have hprog := hs.progress hb
  obtain ⟨hhash, hbuf⟩ := hs.hashing (.inr (.inr hp))
  have hmod := hi.i4_blocks hp
  have hle := hi.fillLeCount hp
  have hcount := hprog.counted
  have hfull : s.fill.toNat = 64 := by rw [hfill]; rfl
  rw [hfull] at hhash hbuf hmod hle
  have hrest : block = s.message.drop (s.nin.toNat - 64) := Option.some.inj (hblock.symm.trans hbuf)
  have hlen : block.length = 64 := ((s.buf.readBytes_eq_some 0 64 block).mp hblock).1
  refine .of_beforeDigest (.inr (.inr hp)) (hi.i5 hb) { hprog with } ⟨?_, ?_⟩
  · have hwhole : 64 ∣ (s.message.take (s.nin.toNat - 64)).length := by rw [List.length_take]; omega
    calc compressBlock s.h block = hashBlocks iv (s.message.take (s.nin.toNat - 64) ++ block) := by
          rw [hashBlocks_append _ _ hwhole, ← hhash, hashBlocks_block _ hlen]
      _ = hashBlocks iv (s.message.take s.nin.toNat) := by
          rw [hrest, List.take_append_drop, ← hcount, List.take_length]
  · simp [Buffer.readBytes, ← hcount]

/-- FINALIZE's hash is the message's (R122). -/
theorem finalHash_eq_sha256Hash {s : State} {block : List Byte} (hi : Inv s) (hs : Functional s)
    (hf : finalizeEnabled s = true) (hblock : (padBuffer s).buf.readBytes 0 64 = some block) :
    finalHash block s = sha256Hash s.message := by
  obtain ⟨hp, hnin, hfill⟩ := (finalizeEnabled_iff s).mp hf
  obtain ⟨hhash, hbuf⟩ := hs.hashing (.inr (.inr hp))
  have hcount := hs.counted ((busy_iff s).mpr (by simp [hp]))
  have hmod := hi.i4_blocks hp
  have hle := hi.fillLeCount hp
  have hfill' : s.fill.toNat < 64 := hfill
  obtain rfl : _ = block := Option.some.inj ((readBytes_padBuffer hfill hbuf).symm.trans hblock)
  have hlen := ((Buffer.readBytes_eq_some _ 0 64 _).mp hblock).1
  have hwhole : 64 ∣ (s.message.take (s.nin.toNat - s.fill.toNat)).length := by rw [List.length_take]; omega
  rw [finalHash_eq_hashBlocks s hlen, hhash, ← hashBlocks_append _ _ hwhole, sha256Hash,
    pad_eq_append_padding (s := s) (by rw [hcount, hnin]) (by omega)]
  congr 1
  rw [← List.append_assoc, ← List.append_assoc, List.take_append_drop]

theorem functional_finalize {s t : State} (hi : Inv s) (hs : Functional s) (h : exec .finalize s = .next t) :
    Functional t := by
  obtain ⟨hf, block, hblock, rfl⟩ := execFinalize_eq_next.mp h
  obtain ⟨hp, -, -⟩ := (finalizeEnabled_iff s).mp hf
  have hb : busy s = true := (busy_iff s).mpr (by simp [hp])
  have hprog := hs.progress hb
  have hdigest := finalHash_eq_sha256Hash hi hs hf hblock
  cases hm : s.modeq with
  | frame =>
    have hsofar := hprog.framed hm
    refine .of_digest rfl (hi.i5 hb) ⟨hprog.counted, fun _ => ?_, hprog.noLastYet, nofun⟩ hdigest
    simpa [expectedBytes, hp, produced] using hsofar
  | digestOnly => exact (functional_idle_iff rfl).mpr ⟨fun _ => hs.silent hm, nofun, fun _ => hdigest⟩

/-! ### `Functional` in every reachable state -/

theorem exec_keeps_functional {i : Instr} {s t : State} (hi : Inv s) (hs : Functional s) (h : exec i s = .next t) :
    Functional t := by
  obtain ⟨-, v, rfl⟩ | rfl | ⟨v, -, -, rfl⟩ | ⟨v, -, -, -, rfl⟩ | ⟨v, -, -, -, rfl⟩ | ⟨v, -, rfl⟩ | ⟨v, -, hb, rfl⟩ |
    ⟨b, rfl⟩ | rfl | rfl | rfl | rfl | ⟨-, rfl⟩ := exec_cases h
  · exact hs.of_unread rfl
  · exact hs
  · exact functional_abortOp (hi.of_unread rfl) (hs.of_unread rfl)
  · exact functional_startOp (hi.of_unread rfl) (hs.of_unread rfl)
  · exact hs.of_unread rfl
  · refine (hs.withDone (d := if statusClearDone v then false else s.done) ?_).of_unread rfl
    split
    · exact nofun
    · exact id
  · exact hs.withLength hb v
  · exact functional_inXfer hi hs h
  · exact functional_outXfer hi hs h
  · exact functional_gen hi hs h
  · exact functional_compress hi hs h
  · exact functional_finalize hi hs h
  · exact (functional_resetFor s.cfg).of_unread rfl

/-- Settles O17: a step is one event, and each event keeps `Functional` where the invariant holds. -/
theorem everyStepKeepsTheFunctionalInvariant : Obligations.EveryStepKeepsTheFunctionalInvariant := by
  intro s t hi hs h
  obtain ⟨w, rest, i, -, -, hx⟩ | ⟨-, a, -, ha⟩ | ⟨-, rfl⟩ := step_cases h
  · exact exec_keeps_functional (hi.of_unread rfl) (hs.of_unread rfl) hx
  · exact exec_keeps_functional hi hs ha
  · exact hs

theorem Reachable.functional {s : State} (h : Reachable s) : Functional s := by
  induction h with
  | reset c => exact functional_resetFor c
  | act i hs hx ih => exact exec_keeps_functional hs.inv ih hx
  | environment es n _ ih => exact ih.of_unread rfl

/-- Settles O33, phase by phase: in DIGEST the message is whole, and before it the frame's bytes up to the message do
not depend on what is to come. -/
theorem bytesSoFarAreAPrefixOfTheFrame : Obligations.BytesSoFarAreAPrefixOfTheFrame := by
  intro s more hr hb hm hlen
  have hf := hr.functional
  rw [hf.framed hm hb, frame_of_length hlen, expectedBytes]
  cases hp : s.phase with
  | idle => exact List.nil_prefix
  | preamble =>
    simp only [List.append_assoc]
    exact (List.take_prefix _ preamble).trans (List.prefix_append _ _)
  | length =>
    simp only [List.append_assoc]
    exact (List.prefix_append_right_inj preamble).mpr ((List.take_prefix _ _).trans (List.prefix_append _ _))
  | payload =>
    rw [← List.append_assoc]
    exact (List.prefix_append _ more).trans (List.prefix_append _ _)
  | digest =>
    have hmore : more = [] := by
      have hcount := hf.counted hb
      rw [hr.inv.countAfter hp] at hcount
      rw [List.length_append] at hlen
      exact List.length_eq_zero_iff.mp (by omega)
    rw [hmore, List.append_nil, sha256, ← hf.digested hp]
    exact (List.prefix_append_right_inj _).mpr (List.take_prefix _ _)

/-! ### The order of actions (R70) -/

/-- Settles O7: the two clauses are the two answers of the decoder in `runWord`. -/
theorem stepRunsTheOldestPendingEvent : Obligations.StepRunsTheOldestPendingEvent := by
  intro s w rest he
  have hstep : step s = runWord w { s with events := rest } := by simp only [step, nextEvent, he]
  exact ⟨fun i hi => by simp only [hstep, runWord, hi], fun why hw => by simp only [hstep, runWord, hw]⟩

/-! ### The configuration of a running operation (R75) -/

/-- Settles O47: a LENGTH write is dropped while busy, a START is refused, and RESET ends the operation. -/
theorem runningOperationKeepsItsLengthAndMode : Obligations.RunningOperationKeepsItsLengthAndMode := by
  intro i s t hb h ht
  obtain ⟨-, v, rfl⟩ | rfl | ⟨v, -, -, rfl⟩ | ⟨v, -, -, -, rfl⟩ | ⟨v, -, -, -, rfl⟩ | ⟨v, -, rfl⟩ | ⟨v, -, hidle, rfl⟩ |
    ⟨b, rfl⟩ | rfl | rfl | rfl | rfl | ⟨-, rfl⟩ := exec_cases h
  · exact ⟨rfl, rfl⟩
  · exact ⟨rfl, rfl⟩
  · rw [abortOp_of_busy (by exact hb)]
    exact ⟨rfl, rfl⟩
  · rw [startOp_of_busy (by exact hb)]
    exact ⟨rfl, rfl⟩
  · exact ⟨rfl, rfl⟩
  · exact ⟨rfl, rfl⟩
  · exact absurd hb (by simp [hidle])
  · obtain ⟨-, rfl⟩ := execInXfer_eq_next.mp h
    exact ⟨rfl, rfl⟩
  · obtain ⟨-, rfl⟩ := execOutXfer_eq_next.mp h
    exact ⟨rfl, rfl⟩
  · obtain ⟨b, last, p, g, rfl, -⟩ := gen_frame h
    exact ⟨rfl, rfl⟩
  · obtain ⟨-, block, -, rfl⟩ := execCompress_eq_next.mp h
    exact ⟨rfl, rfl⟩
  · obtain ⟨-, block, -, rfl⟩ := execFinalize_eq_next.mp h
    exact ⟨rfl, rfl⟩
  · exact nomatch ht

/-! ### The actions of one clock cycle (R72) -/

/-- In FRAME mode `in_ready` waits for the held byte to leave; in DIGEST_ONLY mode none is ever held (I6). -/
theorem Inv.ov_eq_false_of_inReady {s : State} (hi : Inv s) (h : inReady s = true) : s.ov = false := by
  obtain ⟨hp, -, -, hm | hov⟩ := (inReady_iff s).mp h
  · exact (hi.i6 hm ((busy_iff s).mpr (by simp [hp]))).2
  · exact hov

theorem engine_disabled_of_inReady {s : State} (h : inReady s = true) (a : EngineAction) :
    enabled a.event s = false := by
  obtain ⟨hp, hnin, hfill, -⟩ := (inReady_iff s).mp h
  cases a with
  | gen => exact genEnabled_eq_false_of_payload hp
  | compress => exact Bool.eq_false_iff.mpr fun hc => BitVec.ne_of_lt hfill ((compressEnabled_iff s).mp hc).2
  | finalize => exact Bool.eq_false_iff.mpr fun hf => BitVec.ne_of_lt hnin ((finalizeEnabled_iff s).mp hf).2.1

theorem genEnabled_eq_false_of_held {s : State} (h : s.ov = true) : genEnabled s = false := by
  simp [genEnabled, h]

theorem execOutXfer_of_not_last {s : State} (hov : s.ov = true) (hol : s.ol = false) :
    exec .outXfer s = .next { s with delivered := s.delivered ++ [(s.od, false)], ov := false, ol := false } :=
  execOutXfer_eq_next.mpr ⟨hov, by simp [hol]⟩

/-- OUT touches no field that COMPRESS or FINALIZE reads or writes: the byte it delivers is not the last. -/
theorem outXfer_comm_engine {s : State} (hi : Inv s) (hov : s.ov = true) {a : EngineAction}
    (ha : enabled a.event s = true) :
    andThen (exec .outXfer s) (exec a.event) = andThen (exec a.event s) (exec .outXfer) := by
  obtain ⟨t, ht⟩ := everyEnabledEventCompletes a.event s hi ha
  cases a with
  | gen => exact absurd ha (by simp [EngineAction.event, enabled, genEnabled_eq_false_of_held hov])
  | compress =>
    obtain ⟨hc, block, hblock, rfl⟩ := execCompress_eq_next.mp ht
    have hp := ((compressEnabled_iff s).mp hc).1
    have hol := hi.ol_eq_false (by simp [hp])
    rw [ht, andThen_next, execOutXfer_of_not_last hov hol, andThen_next,
      execOutXfer_of_not_last (by exact hov) (by exact hol)]
    exact execCompress_eq_next.mpr ⟨hc, block, hblock, rfl⟩
  | finalize =>
    obtain ⟨hf, block, hblock, rfl⟩ := execFinalize_eq_next.mp ht
    have hp := ((finalizeEnabled_iff s).mp hf).1
    have hol := hi.ol_eq_false (by simp [hp])
    rw [ht, andThen_next, execOutXfer_of_not_last hov hol, andThen_next,
      execOutXfer_of_not_last (by exact hov) (by exact hol)]
    rw [padBuffer_buf] at hblock ⊢
    exact execFinalize_eq_next.mpr ⟨hf, block, by rw [padBuffer_buf]; exact hblock, by rw [padBuffer_buf]; rfl⟩

/-- Settles O57, clause by clause: IN needs a free buffer and missing bytes, GEN an empty holding register, and OUT
commutes with the two actions that share its cycle (`outXfer_comm_engine`). -/
theorem cycleActionsDoNotInterfere : Obligations.CycleActionsDoNotInterfere := fun _ hi =>
  ⟨fun hr => ⟨hi.ov_eq_false_of_inReady hr, engine_disabled_of_inReady hr⟩, genEnabled_eq_false_of_held,
    fun _ _ => enabledEngineAction_unique, fun hov _ => outXfer_comm_engine hi hov⟩

/-! ### A clock cycle is one interleaving (R72) -/

/-- What every event keeps, a list of events keeps. -/
theorem execAll_keeps {P : State → Prop} (hP : ∀ {i s t}, P s → exec i s = .next t → P t) {is : List Instr}
    {s t : State} (hs : P s) (h : execAll is s = .next t) : P t := by
  induction is generalizing s with
  | nil => exact Host.Outcome.next.inj h ▸ hs
  | cons i is ih =>
    obtain ⟨u, hu, ht⟩ := andThen_eq_next.mp h
    exact ih (hP hs hu) ht

theorem execAll_draws {is : List Instr} {s t : State} (h : execAll is s = .next t) : t.draws = s.draws :=
  execAll_keeps (P := fun u => u.draws = s.draws)
    (fun hs hx => (noEventWritesTheConfigurationOrTheQueue _ _ _ hx).2.2.trans hs) rfl h

theorem Reachable.of_execAll {is : List Instr} {s t : State} (hs : Reachable s) (h : execAll is s = .next t) :
    Reachable t :=
  execAll_keeps (fun hu => Reachable.act _ hu) hs h

/-- Out of reset the actions of a cycle are its events run in order. -/
theorem cycleActions_eq_execAll {p : CycleIn} (h : p.rstN = true) (s : State) :
    cycleActions p s = execAll (cycleEvents p s) s := by
  have hrun : ¬ p.rstN = false := by simp [h]
  rw [cycleEvents, if_neg hrun]
  simp only [cycleActions, occurs_eq, commitAction_eq, execAll_append, andThen_assoc, outEnabled]

/-- The cycles the block takes (log 13): any in reset; otherwise not both strobes, and a commit enabled at the start. -/
def CycleIn.admissible (p : CycleIn) (s : State) : Prop :=
  p.rstN = true → (p.csrWe && p.csrRe) = false ∧ ∀ a, p.commit = some a → enabled a.event s = true

/-- A cycle answers exactly where it is admissible and its events do, and moves the free-value counter on (log 12). -/
theorem cycle_eq_next {p : CycleIn} {s t : State} :
    cycle p s = .next t ↔ p.admissible s ∧ ∃ u, execAll (cycleEvents p s) s = .next u ∧
      { u with draws := u.draws + 1 } = t := by
  simp only [cycle, andThen_eq_next, Host.Outcome.next.injEq, CycleIn.admissible]
  cases hr : p.rstN with
  | false =>
    simp only [if_true, cycleEvents_of_reset hr, execAll_singleton, Bool.false_eq_true, false_imp_iff, true_and]
  | true =>
    cases hc : p.csrWe && p.csrRe with
    | true => simp
    | false =>
      simp only [andThen_eq_next, commitLegal_eq_next, cycleActions_eq_execAll hr, Bool.true_eq_false,
        Bool.false_eq_true, if_false, true_imp_iff, true_and, and_assoc, exists_eq_left, exists_and_left]

/-- Settles O58: both directions are `cycle_eq_next`. -/
theorem everyCycleIsAnInterleaving : Obligations.EveryCycleIsAnInterleaving := by
  intro p s
  constructor
  · intro t h
    obtain ⟨-, u, hu, rfl⟩ := cycle_eq_next.mp h
    have hd := execAll_draws hu
    refine ⟨congrArg (· + 1) hd, ?_, fun hs => (hs.of_execAll hu).environment u.events (u.draws + 1)⟩
    rw [hu, ← hd]
  · exact fun t hp h => cycle_eq_next.mpr ⟨hp, t, h, rfl⟩

end Sys2Proof.Machine
end

section
/-! The encoding family (spec/30_encoding.md R80 to R89; spec/42_stream_ports.md R160): the decoder kind by kind, both
round trips of the event word, which rows of the opcode map select a word, the words of the pseudo-instructions, and the
clock cycles in which one event occurs. -/

namespace Sys2Proof

/-! ### The address map (R64), for reads and writes alike -/

theorem encode_readEvent (a : CsrIndex) : encode (readEvent a) = eventWord 0 a 0 := by revert a; decide

theorem wf_readEvent (a : CsrIndex) : (readEvent a).wf = true := by revert a; decide

theorem isCsrRead_readEvent (a : CsrIndex) : Machine.isCsrRead (readEvent a) = true := by revert a; decide

theorem readEvent_of_rsvd {a : CsrIndex} (h : isRsvdIndex a = true) : readEvent a = .csrRdRsvd a := by
  revert a; decide

theorem readEvent_digestIndex (k : BitVec 3) : readEvent (digestIndex k) = .csrRdDigest k := by revert k; decide

theorem readEvent_of_unmappedLow {a : CsrIndex} (h : isUnmappedLowIndex a = true) :
    readEvent a = .csrRdUnmappedLow a := by
  revert a; decide

theorem readEvent_of_unmappedHigh {a : CsrIndex} (h : isUnmappedHighIndex a = true) :
    readEvent a = .csrRdUnmappedHigh a := by
  revert a; decide

/-- The write of `v` to the register that `i` reads; an event that reads no register stays as it is. -/
def Instr.toWrite (v : Word) : Instr → Instr
  | .csrRdId => .csrWrId v
  | .csrRdCtrl => .csrWrCtrl v
  | .csrRdStatus => .csrWrStatus v
  | .csrRdLength => .csrWrLength v
  | .csrRdCount => .csrWrCount v
  | .csrRdCaps => .csrWrCaps v
  | .csrRdRsvd a => .csrWrRsvd a v
  | .csrRdDigest k => .csrWrDigest k v
  | .csrRdUnmappedLow a => .csrWrUnmappedLow a v
  | .csrRdUnmappedHigh a => .csrWrUnmappedHigh a v
  | i => i

/-- One address map serves reads and writes, so what is decided of the 64 reads carries over to every write. -/
theorem writeEvent_eq_toWrite (a : CsrIndex) (v : Word) : writeEvent a v = (readEvent a).toWrite v := by
  simp only [writeEvent, readEvent, apply_ite (Instr.toWrite v)]
  rfl

theorem wf_toWrite (i : Instr) (v : Word) : (i.toWrite v).wf = i.wf := by cases i <;> rfl

theorem encode_toWrite {i : Instr} (h : Machine.isCsrRead i = true) (v : Word) :
    encode (i.toWrite v) = eventWord 1 (addrOf (encode i)) v := by
  cases i with
  | csrRdId | csrRdCtrl | csrRdStatus | csrRdLength | csrRdCount | csrRdCaps | csrRdRsvd | csrRdDigest
  | csrRdUnmappedLow | csrRdUnmappedHigh => simp only [encode, Instr.toWrite, addrOf_eventWord]
  | csrWrId | csrWrCtrl | csrWrStatus | csrWrLength | csrWrCount | csrWrCaps | csrWrRsvd | csrWrDigest
  | csrWrUnmappedLow | csrWrUnmappedHigh | inXfer | outXfer | gen | compress | finalize | reset =>
    exact Bool.noConfusion h

theorem encode_writeEvent (a : CsrIndex) (v : Word) : encode (writeEvent a v) = eventWord 1 a v := by
  rw [writeEvent_eq_toWrite, encode_toWrite (isCsrRead_readEvent a), encode_readEvent, addrOf_eventWord]

theorem wf_writeEvent (a : CsrIndex) (v : Word) : (writeEvent a v).wf = true := by
  rw [writeEvent_eq_toWrite, wf_toWrite, wf_readEvent]

/-! ### The byte of kind 2 and the zeros above it (R80, R84) -/

theorem high_eq_zero_iff (d : Word) : d.extractLsb' 8 24 = 0 ↔ d.toNat < 256 := by
  rw [← BitVec.toNat_inj, BitVec.extractLsb'_toNat, Nat.shiftRight_eq_div_pow]
  have hd := d.isLt
  simp only [BitVec.ofNat_eq_ofNat, BitVec.toNat_ofNat]
  omega

theorem high_setWidth (b : Byte) : (b.setWidth 32).extractLsb' 8 24 = 0 := by
  rw [high_eq_zero_iff]
  bv_omega

theorem low_setWidth (b : Byte) : (b.setWidth 32).extractLsb' 0 8 = b := by
  apply BitVec.eq_of_toNat_eq
  rw [BitVec.extractLsb'_toNat, BitVec.toNat_setWidth, Nat.shiftRight_zero]
  omega

theorem setWidth_low {d : Word} (h : d.extractLsb' 8 24 = 0) : (d.extractLsb' 0 8).setWidth 32 = d := by
  rw [high_eq_zero_iff] at h
  apply BitVec.eq_of_toNat_eq
  rw [BitVec.toNat_setWidth, BitVec.extractLsb'_toNat, Nat.shiftRight_zero]
  omega

theorem high_and_mask (d : Word) : (d &&& 0xFFFFFF00).extractLsb' 8 24 = d.extractLsb' 8 24 := by
  rw [BitVec.extractLsb'_and]
  exact BitVec.and_allOnes

/-! ### The decoder, kind by kind (R81, R84) -/

/-- The event of a kind without operands, 3 to 7 (R81). -/
def bareEvent (k : BitVec 3) : Instr :=
  if k = 3 then .outXfer else if k = 4 then .gen else if k = 5 then .compress else if k = 6 then .finalize else .reset

theorem encode_bareEvent {k : BitVec 3} (h : 3 ≤ k) : encode (bareEvent k) = eventWord k 0 0 := by revert k; decide

theorem wf_bareEvent (k : BitVec 3) : (bareEvent k).wf = true := by revert k; decide

theorem kind_cases (k : BitVec 3) : k = 0 ∨ k = 1 ∨ k = 2 ∨ 3 ≤ k := by revert k; decide

theorem bareKind_ne {k : BitVec 3} (h : 3 ≤ k) : k ≠ 0 ∧ k ≠ 1 ∧ k ≠ 2 := by revert k; decide

theorem decode_of_kind_read {w : EventWord} (h : kindOf w = 0) : decode w = decodeRead (addrOf w) (dataOf w) :=
  if_pos h

theorem decode_of_kind_write {w : EventWord} (h : kindOf w = 1) :
    decode w = .ok (writeEvent (addrOf w) (dataOf w)) := by
  simp [decode, h]

theorem decode_of_kind_in {w : EventWord} (h : kindOf w = 2) : decode w = decodeIn (addrOf w) (dataOf w) := by
  simp [decode, h]

theorem decode_of_kind_bare {w : EventWord} (h : 3 ≤ kindOf w) :
    decode w = decodeBare (bareEvent (kindOf w)) (addrOf w) (dataOf w) := by
  obtain ⟨h0, h1, h2⟩ := bareKind_ne h
  simp only [decode, bareEvent, if_neg h0, if_neg h1, if_neg h2, apply_ite (decodeBare · (addrOf w) (dataOf w))]

theorem decodeRead_eq_ok {a : CsrIndex} {d : Word} {i : Instr} :
    decodeRead a d = .ok i ↔ d = 0 ∧ readEvent a = i := by
  unfold decodeRead
  split <;> simp_all

theorem decodeIn_eq_ok {a : CsrIndex} {d : Word} {i : Instr} :
    decodeIn a d = .ok i ↔ a = 0 ∧ d.extractLsb' 8 24 = 0 ∧ .inXfer (d.extractLsb' 0 8) = i := by
  unfold decodeIn
  split_ifs <;> simp_all

theorem decodeBare_eq_ok {j i : Instr} {a : CsrIndex} {d : Word} :
    decodeBare j a d = .ok i ↔ a = 0 ∧ d = 0 ∧ j = i := by
  unfold decodeBare
  split_ifs <;> simp_all

theorem decode_eventWord_read (a : CsrIndex) : decode (eventWord 0 a 0) = .ok (readEvent a) := by
  rw [decode_of_kind_read (kindOf_eventWord 0 a 0), addrOf_eventWord, dataOf_eventWord, decodeRead_eq_ok]
  exact ⟨rfl, rfl⟩

theorem decode_eventWord_write (a : CsrIndex) (v : Word) :
    decode (eventWord 1 a v) = .ok ((readEvent a).toWrite v) := by
  rw [decode_of_kind_write (kindOf_eventWord 1 a v), addrOf_eventWord, dataOf_eventWord, writeEvent_eq_toWrite]

theorem decode_eventWord_in (b : Byte) : decode (eventWord 2 0 (b.setWidth 32)) = .ok (.inXfer b) := by
  rw [decode_of_kind_in (kindOf_eventWord 2 0 _), addrOf_eventWord, dataOf_eventWord, decodeIn_eq_ok, low_setWidth]
  exact ⟨rfl, high_setWidth b, rfl⟩

/-! ### Both round trips -/

/-- Settles O1, row by row: a CSR event's index selects its own row of the address map. -/
theorem decodeOfEncodeIsTheEvent : Obligations.DecodeOfEncodeIsTheEvent := by
  intro i hwf
  cases i with
  | csrRdId | csrRdCtrl | csrRdStatus | csrRdLength | csrRdCount | csrRdCaps => exact decode_eventWord_read _
  | csrRdRsvd a => rw [encode, decode_eventWord_read, readEvent_of_rsvd hwf]
  | csrRdDigest k => rw [encode, decode_eventWord_read, readEvent_digestIndex]
  | csrRdUnmappedLow a => rw [encode, decode_eventWord_read, readEvent_of_unmappedLow hwf]
  | csrRdUnmappedHigh a => rw [encode, decode_eventWord_read, readEvent_of_unmappedHigh hwf]
  | csrWrId | csrWrCtrl | csrWrStatus | csrWrLength | csrWrCount | csrWrCaps => exact decode_eventWord_write _ _
  | csrWrRsvd a v => rw [encode, decode_eventWord_write, readEvent_of_rsvd hwf, Instr.toWrite]
  | csrWrDigest k v => rw [encode, decode_eventWord_write, readEvent_digestIndex, Instr.toWrite]
  | csrWrUnmappedLow a v => rw [encode, decode_eventWord_write, readEvent_of_unmappedLow hwf, Instr.toWrite]
  | csrWrUnmappedHigh a v => rw [encode, decode_eventWord_write, readEvent_of_unmappedHigh hwf, Instr.toWrite]
  | inXfer b => exact decode_eventWord_in b
  | outXfer | gen | compress | finalize | reset => rfl

/-- Settles O2, kind by kind: the fields the decoder tests for zero are the ones the event does not carry. -/
theorem encodeOfDecodedEventIsTheWord : Obligations.EncodeOfDecodedEventIsTheWord := by
  intro w i h
  suffices hi : encode i = eventWord (kindOf w) (addrOf w) (dataOf w) ∧ i.wf = true by rwa [eventWord_fields] at hi
  obtain hk | hk | hk | hk := kind_cases (kindOf w)
  · rw [decode_of_kind_read hk, decodeRead_eq_ok] at h
    obtain ⟨hd, rfl⟩ := h
    exact ⟨by rw [encode_readEvent, hk, hd], wf_readEvent _⟩
  · rw [decode_of_kind_write hk, Except.ok.injEq] at h
    subst h
    exact ⟨by rw [encode_writeEvent, hk], wf_writeEvent _ _⟩
  · rw [decode_of_kind_in hk, decodeIn_eq_ok] at h
    obtain ⟨ha, hd, rfl⟩ := h
    exact ⟨by rw [encode, setWidth_low hd, hk, ha], rfl⟩
  · rw [decode_of_kind_bare hk, decodeBare_eq_ok] at h
    obtain ⟨ha, hd, rfl⟩ := h
    exact ⟨by rw [encode_bareEvent hk, ha, hd], wf_bareEvent _⟩

/-! ### Words that spell no event (R84) -/

/-- A must-be-zero field of the word's kind is not zero (R84). -/
def HasNonzeroReservedField (w : EventWord) : Prop :=
  (kindOf w = 0 ∧ dataOf w ≠ 0) ∨
  (kindOf w = 2 ∧ (addrOf w ≠ 0 ∨ (dataOf w).extractLsb' 8 24 ≠ 0)) ∨
  (3 ≤ kindOf w ∧ (addrOf w ≠ 0 ∨ dataOf w ≠ 0))

theorem exists_decode_eq_ok_iff (w : EventWord) : (∃ i, decode w = .ok i) ↔ ¬ HasNonzeroReservedField w := by
  unfold HasNonzeroReservedField
  obtain hk | hk | hk | hk := kind_cases (kindOf w)
  · simp [decode_of_kind_read hk, decodeRead_eq_ok, hk]
  · simp [decode_of_kind_write hk, hk]
  · simp [decode_of_kind_in hk, decodeIn_eq_ok, hk]
  · obtain ⟨h0, -, h2⟩ := bareKind_ne hk
    simp only [decode_of_kind_bare hk, decodeBare_eq_ok, h0, h2, hk, false_and, false_or, true_and, exists_and_left,
      exists_eq', and_true, not_or, ne_eq, not_not]

theorem exists_decode_eq_error_iff (w : EventWord) :
    (∃ why, decode w = .error why) ↔ HasNonzeroReservedField w := by
  rw [← not_iff_not, ← exists_decode_eq_ok_iff]
  cases decode w <;> simp

/-! ### The opcode map (R87) -/

/-- Any two rows differ in a bit that both of their masks keep. -/
theorem opcodeTable_pairwise_conflict :
    opcodeTable.Pairwise fun r r' => r.bits &&& r'.mask ≠ r'.bits &&& r.mask := by
  decide

theorem bits_and_mask_comm_of_selects {r r' : OpcodeRow} {w : EventWord} (h : r.selects w = true)
    (h' : r'.selects w = true) : r.bits &&& r'.mask = r'.bits &&& r.mask := by
  have e : w &&& r.mask = r.bits := of_decide_eq_true h
  have e' : w &&& r'.mask = r'.bits := of_decide_eq_true h'
  rw [← e, ← e', BitVec.and_assoc, BitVec.and_assoc, BitVec.and_comm r.mask]

/-- A word is selected by one row at most. -/
theorem opcodeTable_index_unique {m n : Nat} {r r' : OpcodeRow} {w : EventWord} (hm : opcodeTable[m]? = some r)
    (hn : opcodeTable[n]? = some r') (h : r.selects w = true) (h' : r'.selects w = true) : m = n := by
  obtain ⟨hlm, rfl⟩ := List.getElem?_eq_some_iff.mp hm
  obtain ⟨hln, rfl⟩ := List.getElem?_eq_some_iff.mp hn
  have hconflict := List.pairwise_iff_getElem.mp opcodeTable_pairwise_conflict
  obtain hlt | rfl | hlt := lt_trichotomy m n
  · exact absurd (bits_and_mask_comm_of_selects h h') (hconflict m n hlm hln hlt)
  · rfl
  · exact absurd (bits_and_mask_comm_of_selects h' h) (hconflict n m hln hlm hlt)

theorem length_filter_selects_le_one (w : EventWord) : (opcodeTable.filter fun r => r.selects w).length ≤ 1 := by
  refine Nat.le_of_not_lt fun hlt => ?_
  have hconflict := List.pairwise_iff_getElem.mp (opcodeTable_pairwise_conflict.filter fun r => r.selects w)
  have hselects (k : Nat) (hk) : (opcodeTable.filter fun r => r.selects w)[k].selects w = true :=
    (List.mem_filter.mp (List.getElem_mem hk)).2
  exact hconflict 0 1 (Nat.zero_lt_of_lt hlt) hlt Nat.zero_lt_one
    (bits_and_mask_comm_of_selects (hselects 0 _) (hselects 1 hlt))

/-- Every row's mask keeps the whole kind and all of its kind's must-be-zero fields, and requires zeros there. -/
theorem opcodeTable_fields : ∀ r ∈ opcodeTable, kindOf r.mask = BitVec.allOnes 3 ∧
    (kindOf r.bits = 0 → dataOf r.mask = BitVec.allOnes 32 ∧ dataOf r.bits = 0) ∧
    (kindOf r.bits = 2 → addrOf r.mask = BitVec.allOnes 6 ∧ addrOf r.bits = 0 ∧
      dataOf r.mask = 0xFFFFFF00 ∧ dataOf r.bits = 0) ∧
    (3 ≤ kindOf r.bits → addrOf r.mask = BitVec.allOnes 6 ∧ addrOf r.bits = 0 ∧
      dataOf r.mask = BitVec.allOnes 32 ∧ dataOf r.bits = 0) := by
  decide

theorem not_hasNonzeroReservedField_of_selects {r : OpcodeRow} {w : EventWord} (hr : r ∈ opcodeTable)
    (h : r.selects w = true) : ¬ HasNonzeroReservedField w := by
  obtain ⟨hkind, hread, hin, hbare⟩ := opcodeTable_fields r hr
  obtain ⟨hk, ha, hd⟩ := (selects_iff r w).mp h
  rw [hkind, BitVec.and_allOnes] at hk
  rw [← hk] at hread hin hbare
  rintro (⟨hw, hnz⟩ | ⟨hw, hnz⟩ | ⟨hw, hnz⟩)
  · obtain ⟨hdm, hdb⟩ := hread hw
    rw [hdm, hdb, BitVec.and_allOnes] at hd
    exact hnz hd
  · obtain ⟨ham, hab, hdm, hdb⟩ := hin hw
    rw [ham, hab, BitVec.and_allOnes] at ha
    rw [hdm, hdb] at hd
    refine hnz.elim (· ha) fun hhigh => hhigh ?_
    rw [← high_and_mask, hd]
    rfl
  · obtain ⟨ham, hab, hdm, hdb⟩ := hbare hw
    rw [ham, hab, BitVec.and_allOnes] at ha
    rw [hdm, hdb, BitVec.and_allOnes] at hd
    exact hnz.elim (· ha) (· hd)

open Laws.RowSelect in
theorem rowSelect : ∀ i : Instr, Statement i
  | .csrRdId => csrRdId
  | .csrRdCtrl => csrRdCtrl
  | .csrRdStatus => csrRdStatus
  | .csrRdLength => csrRdLength
  | .csrRdCount => csrRdCount
  | .csrRdCaps => csrRdCaps
  | .csrRdRsvd a => csrRdRsvd a
  | .csrRdDigest k => csrRdDigest k
  | .csrRdUnmappedLow a => csrRdUnmappedLow a
  | .csrRdUnmappedHigh a => csrRdUnmappedHigh a
  | .csrWrId v => csrWrId v
  | .csrWrCtrl v => csrWrCtrl v
  | .csrWrStatus v => csrWrStatus v
  | .csrWrLength v => csrWrLength v
  | .csrWrCount v => csrWrCount v
  | .csrWrCaps v => csrWrCaps v
  | .csrWrRsvd a v => csrWrRsvd a v
  | .csrWrDigest k v => csrWrDigest k v
  | .csrWrUnmappedLow a v => csrWrUnmappedLow a v
  | .csrWrUnmappedHigh a v => csrWrUnmappedHigh a v
  | .inXfer b => inXfer b
  | .outXfer => outXfer
  | .gen => gen
  | .compress => compress
  | .finalize => finalize
  | .reset => reset

theorem exists_row_of_decode_eq_ok {w : EventWord} {i : Instr} (h : decode w = .ok i) :
    ∃ r, opcodeTable[i.row]? = some r ∧ r.selects w = true := by
  obtain ⟨rfl, hwf⟩ := encodeOfDecodedEventIsTheWord w i h
  exact rowSelect i hwf

/-- Settles O4: a selected word decodes, its event's row selects it as well, and no two rows select one word. -/
theorem opcodeMapRowSelectsItsDecodedEvent : Obligations.OpcodeMapRowSelectsItsDecodedEvent := by
  intro w n r hr
  constructor
  · intro h
    obtain ⟨i, hi⟩ := (exists_decode_eq_ok_iff w).mpr
      (not_hasNonzeroReservedField_of_selects (List.mem_of_getElem? hr) h)
    obtain ⟨r', hr', h'⟩ := exists_row_of_decode_eq_ok hi
    exact ⟨i, hi, opcodeTable_index_unique hr' hr h' h⟩
  · rintro ⟨i, hi, rfl⟩
    obtain ⟨r', hr', h'⟩ := exists_row_of_decode_eq_ok hi
    rwa [Option.some.inj (hr.symm.trans hr')]

/-- Settles O3: the reserved fields decide both the decoder's answer and whether a row, and then only one, selects the
word. -/
theorem illFormedWordsAreTheNonzeroMustBeZeroOnes : Obligations.IllFormedWordsAreTheNonzeroMustBeZeroOnes := by
  intro w
  refine ⟨(exists_decode_eq_error_iff w).symm, fun hw s => ?_, fun hw r hr => ?_, fun hw => ?_⟩
  · obtain ⟨why, hwhy⟩ := (exists_decode_eq_error_iff w).mpr hw
    exact ⟨why, by simp only [Machine.runWord, hwhy]⟩
  · exact Bool.eq_false_iff.mpr fun h => not_hasNonzeroReservedField_of_selects hr h hw
  · obtain ⟨i, hi⟩ := (exists_decode_eq_ok_iff w).mpr hw
    obtain ⟨r, hr, h⟩ := exists_row_of_decode_eq_ok hi
    have hmem : r ∈ opcodeTable.filter fun r => r.selects w := List.mem_filter.mpr ⟨List.mem_of_getElem? hr, h⟩
    exact Nat.le_antisymm (length_filter_selects_le_one w) (List.length_pos_of_mem hmem)

end Sys2Proof

namespace Sys2Proof.Machine

/-! ### Pseudo-instructions (R89) -/

/-- Settles O6: all but `send` expand to one written word; `send` maps each byte to its kind-2 word. -/
theorem pseudoInstructionsExpandToTheSpecsWords : Obligations.PseudoInstructionsExpandToTheSpecsWords :=
  ⟨fun _ => rfl, rfl, rfl, rfl, rfl, rfl, rfl, fun _ => List.map_map⟩

/-! ### Clock cycles with one event (R82, R160, R251) -/

/-- The outcome `o` with the free-value counter moved on, as a clock cycle leaves it (log 12). -/
def advanceDraws (o : Outcome) : Outcome := andThen o fun t => .next { t with draws := t.draws + 1 }

/-- Out of reset a cycle with one strobe at most and a legal commit runs its events. -/
theorem cycle_of_commitLegal {p : CycleIn} {s : State} (hr : p.rstN = true) (hc : (p.csrWe && p.csrRe) = false)
    (hl : commitLegal p.commit s = .next s) : cycle p s = advanceDraws (execAll (cycleEvents p s) s) := by
  simp [cycle, advanceDraws, hr, hc, hl, cycleActions_eq_execAll hr]

theorem cycle_of_events_singleton {p : CycleIn} {s : State} {i : Instr} (hr : p.rstN = true)
    (hc : (p.csrWe && p.csrRe) = false) (hl : commitLegal p.commit s = .next s) (he : cycleEvents p s = [i]) :
    cycle p s = advanceDraws (exec i s) := by
  rw [cycle_of_commitLegal hr hc hl, he, execAll_singleton]

theorem cycle_of_events_nil {p : CycleIn} {s : State} (hr : p.rstN = true) (hc : (p.csrWe && p.csrRe) = false)
    (hl : commitLegal p.commit s = .next s) (he : cycleEvents p s = []) : cycle p s = advanceDraws (.next s) := by
  rw [cycle_of_commitLegal hr hc hl, he, execAll_nil]

/-- A cycle and the event refuse a disabled engine action alike. -/
theorem cycle_of_commit (e : EngineAction) (s : State) :
    cycle { CycleIn.quiet with commit := some e } s = advanceDraws (exec e.event s) := by
  cases he : enabled e.event s with
  | true =>
    exact cycle_of_events_singleton rfl rfl (by simp [commitLegal, he]) (by simp [cycleEvents, CycleIn.quiet])
  | false =>
    rw [disabledEventsHaveNoStep _ _ he]
    simp [cycle, CycleIn.quiet, commitLegal, he, advanceDraws]

/-- Settles O56, clause by clause: which events `cycleEvents` lists for the inputs driven. -/
theorem cycleOfOneEventIsThatEvent : Obligations.CycleOfOneEventIsThatEvent := by
  intro s
  refine ⟨fun a => ?read, fun a v => ?write, fun b hin => ?offer, fun hov => ?accept, fun e => cycle_of_commit e s,
    fun p hp => ?reset, fun p hp hwe hre => ?bothStrobes, fun b hin => ?offerAlone, fun hov => ?acceptAlone,
    fun b hin hov => ?offerAndAccept⟩
  case read => exact cycle_of_events_singleton rfl rfl rfl (by simp [cycleEvents, CycleIn.quiet])
  case write => exact cycle_of_events_singleton rfl rfl rfl (by simp [cycleEvents, CycleIn.quiet])
  case offer => exact cycle_of_events_singleton rfl rfl rfl (by simp [cycleEvents, CycleIn.quiet, hin])
  case accept => exact cycle_of_events_singleton rfl rfl rfl (by simp [cycleEvents, CycleIn.quiet, hov])
  case reset => simp only [cycle, hp, if_true]
  case bothStrobes => simp [cycle, hp, hwe, hre]
  case offerAlone => exact cycle_of_events_nil rfl rfl rfl (by simp [cycleEvents, CycleIn.quiet, hin])
  case acceptAlone => exact cycle_of_events_nil rfl rfl rfl (by simp [cycleEvents, CycleIn.quiet, hov])
  case offerAndAccept => exact cycle_of_events_nil rfl rfl rfl (by simp [cycleEvents, CycleIn.quiet, hin, hov])

end Sys2Proof.Machine
end

section
/-! The SHA-256 engine family (spec/40_sha256_engine.md R110 to R124; spec/60_exceptions.md R225): the padding and the
message schedule as pure functions, COMPRESS and FINALIZE, and the block without the engine. -/

namespace Sys2Proof.Machine

/-! ### The padding (R110) -/

@[simp] theorem be64_length (v : DWord) : (be64 v).length = 8 := rfl

theorem padZeros_spec (n : Nat) : (n + 1 + padZeros n) % 64 = 56 := by
  unfold padZeros
  omega

theorem padZeros_least {n j : Nat} (hj : j < padZeros n) : (n + 1 + j) % 64 ≠ 56 := by
  unfold padZeros at hj
  omega

theorem pad_length (m : List Byte) : (pad m).length = 64 * ((m.length + 8) / 64 + 1) := by
  have hlen : (pad m).length = m.length + 1 + padZeros m.length + 8 := by simp [pad]; omega
  rw [hlen, padZeros]
  omega

/-- Settles O18: `padZeros` is the least `k`, and `pad_length` counts the blocks. -/
theorem paddingIsTheSpecs : Obligations.PaddingIsTheSpecs := by
  intro m hm
  have hlen := pad_length m
  exact ⟨by omega, by omega, by omega, padZeros m.length, rfl, padZeros_spec _, fun _ => padZeros_least⟩

/-! ### The message schedule (R111, R112) -/

theorem blockWords_length (bs : List Byte) : (blockWords bs).length = bs.length / 4 := by
  induction bs using blockWords.induct with
  | case1 b0 b1 b2 b3 rest ih =>
    simp only [blockWords, List.length_cons, ih]
    omega
  | case2 bs hshort =>
    obtain _ | ⟨b0, _ | ⟨b1, _ | ⟨b2, _ | ⟨b3, rest⟩⟩⟩⟩ := bs
    · rfl
    · simp [blockWords]
    · simp [blockWords]
    · simp [blockWords]
    · exact absurd rfl (hshort b0 b1 b2 b3 rest)

/-- `WORD_BE(B, i)`: the word at byte offset `i` (R11). -/
def wordAt (bs : List Byte) (i : Nat) : Word :=
  wordBE (bs.getD i 0) (bs.getD (i + 1) 0) (bs.getD (i + 2) 0) (bs.getD (i + 3) 0)

theorem blockWords_getD {t : Nat} {bs : List Byte} (h : 4 * t + 3 < bs.length) :
    (blockWords bs).getD t 0 = wordAt bs (4 * t) := by
  induction t generalizing bs with
  | zero =>
    obtain _ | ⟨b0, _ | ⟨b1, _ | ⟨b2, _ | ⟨b3, rest⟩⟩⟩⟩ := bs <;> simp at h
    rfl
  | succ t ih =>
    obtain _ | ⟨b0, _ | ⟨b1, _ | ⟨b2, _ | ⟨b3, rest⟩⟩⟩⟩ := bs <;> simp at h
    exact ih (by omega)

theorem extendSchedule_length (n : Nat) (ws : List Word) : (extendSchedule n ws).length = ws.length + n := by
  induction n generalizing ws with
  | zero => rfl
  | succ n ih =>
    rw [extendSchedule, ih, List.length_cons]
    omega

theorem suffix_extendSchedule (n : Nat) (ws : List Word) : ws <:+ extendSchedule n ws := by
  induction n generalizing ws with
  | zero => exact List.suffix_rfl
  | succ n ih => exact (List.suffix_cons _ ws).trans (ih _)

/-- Extending changes no word that is there: counted from the oldest, each keeps its place. -/
theorem reverse_extendSchedule_getD (n : Nat) {ws : List Word} {i : Nat} (hi : i < ws.length) :
    (extendSchedule n ws).reverse.getD i 0 = ws.reverse.getD i 0 := by
  obtain ⟨newer, hnewer⟩ := suffix_extendSchedule n ws
  rw [← hnewer, List.reverse_append, List.getD_append _ _ _ _ (by rwa [List.length_reverse])]

/-- The `j`-th newest word before extending, counted from the oldest. -/
theorem reverse_extendSchedule_getD_newest (n : Nat) {ws : List Word} {i j : Nat} (h : i + j + 1 = ws.length) :
    (extendSchedule n ws).reverse.getD i 0 = ws.getD j 0 := by
  have hi : i < ws.length := by omega
  rw [reverse_extendSchedule_getD n hi, List.getD_reverse i hi, show ws.length - 1 - i = j by omega]

/-- Every word that extending adds satisfies the recurrence of R112. -/
theorem reverse_extendSchedule_recurrence {n : Nat} {ws : List Word} {t : Nat} (h16 : 16 ≤ ws.length)
    (hlo : ws.length ≤ t) (hhi : t < ws.length + n) :
    (extendSchedule n ws).reverse.getD t 0 =
      smallSigma1 ((extendSchedule n ws).reverse.getD (t - 2) 0) + (extendSchedule n ws).reverse.getD (t - 7) 0
        + smallSigma0 ((extendSchedule n ws).reverse.getD (t - 15) 0)
        + (extendSchedule n ws).reverse.getD (t - 16) 0 := by
  induction n generalizing ws with
  | zero => omega
  | succ n ih =>
    rw [extendSchedule]
    obtain rfl | hlt := hlo.eq_or_lt
    · have hplace {i j : Nat} (h : i + j = ws.length) :=
        reverse_extendSchedule_getD_newest n (ws := nextScheduleWord ws :: ws) (congrArg (· + 1) h)
      rw [hplace (j := 0) rfl, hplace (j := 2) (by omega), hplace (j := 7) (by omega), hplace (j := 15) (by omega),
        hplace (j := 16) (by omega)]
      rfl
    · exact ih (Nat.le_succ_of_le h16) hlt (by rw [List.length_cons]; omega)

/-- Settles O19: the block's sixteen words stay the oldest, and each word added to them obeys the recurrence. -/
theorem scheduleFollowsTheRecurrence : Obligations.ScheduleFollowsTheRecurrence := by
  intro block hlen
  have hwords : (blockWords block).reverse.length = 16 := by rw [List.length_reverse, blockWords_length, hlen]
  refine ⟨?_, fun t ht => ?_, fun t hlo hhi => ?_⟩
  · rw [schedule, List.length_reverse, extendSchedule_length, hwords]
  · rw [schedule, reverse_extendSchedule_getD 48 (hwords ▸ ht), List.reverse_reverse]
    exact blockWords_getD (by omega)
  · exact reverse_extendSchedule_recurrence hwords.ge (by omega) (by omega)

/-! ### COMPRESS (R120) -/

/-- Settles O20: the inversion lemma where COMPRESS is enabled, its refusal elsewhere, and `fill < 64` in the conditions
of IN and FINALIZE. -/
theorem compressCompressesTheFullBuffer : Obligations.CompressCompressesTheFullBuffer := by
  refine ⟨fun s block hp hfill hblock => ?_, fun s hn => ?_, fun s hfill => ?_⟩
  · exact execCompress_eq_next.mpr ⟨(compressEnabled_iff s).mpr ⟨hp, hfill⟩, block, hblock, rfl⟩
  · exact disabledEventsHaveNoStep _ s (Bool.eq_false_iff.mpr fun h => hn ((compressEnabled_iff s).mp h))
  · have hfull : ¬ s.fill < 64 := by rw [hfill]; decide
    refine ⟨Bool.eq_false_iff.mpr fun h => hfull ?_, Bool.eq_false_iff.mpr fun h => hfull ?_⟩
    · obtain ⟨-, -, hlt, -⟩ := (inReady_iff s).mp h
      exact hlt
    · obtain ⟨-, -, hlt⟩ := (finalizeEnabled_iff s).mp h
      exact hlt

/-! ### FINALIZE (R121, R122) -/

/-- Bytes written from `i` on are read there. -/
theorem Buffer.readBytes_writeBytes_same (m : Buffer) (i : Nat) (bs : List Byte) :
    (m.writeBytes i bs).readBytes i bs.length = some bs := by
  refine (Buffer.readBytes_eq_some _ _ _ _).mpr ⟨rfl, fun j hj => ?_⟩
  rw [Buffer.read_writeBytes, if_pos (by omega), Nat.add_sub_cancel_left]

/-- FINALIZE for every `fill`: the message's tail in the buffer is padded and hashed (R121). -/
theorem execFinalize_of_tail {s : State} {tail : List Byte} (hp : s.phase = .payload) (hnin : s.nin = s.length)
    (hfill : s.fill < 64) (htail : s.buf.readBytes 0 s.fill.toNat = some tail) :
    ∃ t, exec .finalize s = .next t ∧
      t.buf.readBytes s.fill.toNat (64 - s.fill.toNat) = some (padding s) ∧
      (∀ j < s.fill.toNat, t.buf.read j = s.buf.read j) ∧
      t = { s with
        buf := t.buf
        h := finalHash (tail ++ padding s) s
        fill := 0
        digest := finalHash (tail ++ padding s) s
        phase := if s.modeq = .frame then .digest else .idle
        gpos := if s.modeq = .frame then 0 else s.gpos
        done := if s.modeq = .frame then s.done else true } := by
  have hen : finalizeEnabled s = true := (finalizeEnabled_iff s).mpr ⟨hp, hnin, hfill⟩
  refine ⟨_, execFinalize_eq_next.mpr ⟨hen, _, readBytes_padBuffer hfill htail, rfl⟩, ?_, fun j hj => ?_, rfl⟩
  · show (padBuffer s).buf.readBytes s.fill.toNat (64 - s.fill.toNat) = some (padding s)
    rw [padBuffer_buf, ← padding_length hfill, Nat.add_sub_cancel_left, Buffer.readBytes_writeBytes_same]
  · show (padBuffer s).buf.read j = s.buf.read j
    rw [padBuffer_buf, Buffer.read_writeBytes, if_neg (by omega)]

theorem padding_of_short {s : State} (hf : s.fill.toNat ≤ 55) :
    padding s = [0x80] ++ zeros (55 - s.fill.toNat) ++ be64 (BitVec.ofNat 64 (8 * s.length.toNat)) := by
  rw [padding, if_pos hf, bitLengthBytes_eq]
  rfl

theorem padding_of_long {s : State} (hf : 56 ≤ s.fill.toNat) :
    padding s = [0x80] ++ zeros (63 - s.fill.toNat) := by
  rw [padding, if_neg (by omega)]
  rfl

theorem finalHash_of_short {s : State} (block : List Byte) (hf : s.fill.toNat ≤ 55) :
    finalHash block s = compressBlock s.h block := if_pos hf

theorem finalHash_of_long {s : State} (block : List Byte) (hf : 56 ≤ s.fill.toNat) :
    finalHash block s =
      compressBlock (compressBlock s.h block) (zeros 56 ++ be64 (BitVec.ofNat 64 (8 * s.length.toNat))) := by
  rw [finalHash, if_neg (by omega), bitLengthBytes_eq]

/-- Settles O21: the bit length still fits, so one block ends the message. -/
theorem finalizeWithAShortTailPadsOneBlock : Obligations.FinalizeWithAShortTailPadsOneBlock := by
  intro s tail hp hnin hf htail
  have hfill : s.fill < 64 := BitVec.lt_def.mpr (show s.fill.toNat < 64 by omega)
  have h := execFinalize_of_tail hp hnin hfill htail
  rwa [finalHash_of_short _ hf, padding_of_short hf] at h

/-- Settles O22: the bit length does not fit, so a second block carries it. -/
theorem finalizeWithALongTailPadsTwoBlocks : Obligations.FinalizeWithALongTailPadsTwoBlocks := by
  intro s tail hp hnin hlo hhi htail
  have hfill : s.fill < 64 := BitVec.lt_def.mpr (show s.fill.toNat < 64 by omega)
  have h := execFinalize_of_tail hp hnin hfill htail
  rwa [finalHash_of_long _ hlo, padding_of_long hlo] at h

/-- Settles O23: `Functional` makes the engine's hash that of the message, which FINALIZE's condition makes whole. -/
theorem finalizePublishesSha256OfTheMessage : Obligations.FinalizePublishesSha256OfTheMessage := by
  intro s t hr h
  obtain ⟨hf, block, hblock, rfl⟩ := execFinalize_eq_next.mp h
  obtain ⟨hp, hnin, -⟩ := (finalizeEnabled_iff s).mp hf
  have hcount := hr.functional.counted ((busy_iff s).mpr (by simp [hp]))
  refine ⟨by rw [hcount, hnin], rfl, ?_⟩
  exact congrArg Hash.bytes (finalHash_eq_sha256Hash hr.inv hr.functional hf hblock)

/-! ### Without the engine (R124, R225) -/

/-- In IDLE nothing is held and nothing is asked for, so no agent but the host and the environment can act. -/
theorem Inv.disabled_of_idle {s : State} (hi : Inv s) (hp : s.phase = .idle) {i : Instr} (hc : carriesOn i) :
    enabled i s = false := by
  cases i with
  | inXfer => simp [enabled, inReady, hp]
  | outXfer => exact (hi.i2 hp).1
  | gen => simp [enabled, genEnabled, hp]
  | compress => simp [enabled, compressEnabled, hp]
  | finalize => simp [enabled, finalizeEnabled, hp]
  | csrRdId | csrRdCtrl | csrRdStatus | csrRdLength | csrRdCount | csrRdCaps | csrRdRsvd | csrRdDigest
  | csrRdUnmappedLow | csrRdUnmappedHigh | csrWrId | csrWrCtrl | csrWrStatus | csrWrLength | csrWrCount | csrWrCaps
  | csrWrRsvd | csrWrDigest | csrWrUnmappedLow | csrWrUnmappedHigh | reset => simp [carriesOn, agentOf] at hc

theorem Inv.refused_of_idle {s : State} (hi : Inv s) (hp : s.phase = .idle) {i : Instr} (hc : carriesOn i) :
    exec i s = .refused (.notEnabled i) := disabledEventsHaveNoStep i s (hi.disabled_of_idle hp hc)

/-- No operation has ended and no byte has left. -/
def NothingProduced (s : State) : Prop := s.done = false ∧ s.delivered = []

/-- Without the engine the host's events and RESET are all that is left, and none of them produces anything. -/
theorem exec_keeps_nothingProduced {i : Instr} {s t : State} (hi : Inv s) (hc : s.cfg.shaPresent = false)
    (hs : NothingProduced s) (h : exec i s = .next t) : NothingProduced t := by
  have hp : s.phase = .idle := hi.i7 hc
  have hb : busy s = false := (busy_false_iff s).mpr hp
  have hno : ¬ carriesOn i := fun hcarry => by simp [hi.refused_of_idle hp hcarry] at h
  obtain ⟨-, v, rfl⟩ | rfl | ⟨v, -, -, rfl⟩ | ⟨v, -, -, -, rfl⟩ | ⟨v, -, -, -, rfl⟩ | ⟨v, -, rfl⟩ | ⟨v, -, -, rfl⟩ |
    ⟨b, rfl⟩ | rfl | rfl | rfl | rfl | ⟨-, rfl⟩ := exec_cases h
  · exact hs
  · exact hs
  · rw [abortOp_of_idle (by exact hb)]
    exact hs
  · rw [startOp_of_withoutSha (by exact hb) (by exact hc)]
    exact ⟨rfl, hs.2⟩
  · exact hs
  · exact ⟨by simp [hs.1], hs.2⟩
  · exact hs
  · exact absurd (.inl rfl) hno
  · exact absurd (.inr (.inl rfl)) hno
  · exact absurd (.inr (.inr rfl)) hno
  · exact absurd (.inr (.inr rfl)) hno
  · exact absurd (.inr (.inr rfl)) hno
  · exact ⟨rfl, rfl⟩

theorem Reachable.nothingProduced {s : State} (h : Reachable s) (hc : s.cfg.shaPresent = false) :
    NothingProduced s := by
  induction h with
  | reset c => exact ⟨rfl, rfl⟩
  | act i hr hx ih =>
    rw [(noEventWritesTheConfigurationOrTheQueue i _ _ hx).1] at hc
    exact exec_keeps_nothingProduced hr.inv hc (ih hc) hx
  | environment es n _ ih => exact ih hc

theorem execStart_of_withoutSha {s : State} {v : Word} (hb : busy s = false) (hc : s.cfg.shaPresent = false)
    (ha : ctrlAbort v = false) (hst : ctrlStart v = true) :
    exec (.csrWrCtrl v) s = .next
      (raiseError .digestUnavailable (clearDone { s with mode := ctrlMode v, irqEn := ctrlIrqEn v })) := by
  rw [exec_csrWrCtrl, ha, hst, startOp_of_withoutSha (by exact hb) (by exact hc)]
  rfl

/-- Settles O51: (I7) keeps the block in IDLE, where only the host and RESET can act. -/
theorem withoutTheEngineNothingStarts : Obligations.WithoutTheEngineNothingStarts := by
  intro s hr hc
  have hp : s.phase = .idle := hr.inv.i7 hc
  obtain ⟨hdone, hdelivered⟩ := hr.nothingProduced hc
  refine ⟨hp, hdone, hdelivered, fun i => hr.inv.refused_of_idle hp, fun v ha hst => ?_⟩
  exact ⟨_, execStart_of_withoutSha ((busy_false_iff s).mpr hp) hc ha hst, hp, rfl, rfl⟩

end Sys2Proof.Machine
end

section
/-! The frame serializer family (spec/41_frame_serializer.md R140 to R149). -/

namespace Sys2Proof.Machine

/-! ### GEN (R145) -/

/-- GEN where it is enabled and its index is in the phase's range (R23). -/
theorem execGen_of_generatedByte {s : State} {b : Byte} (hg : genEnabled s = true) (hb : generatedByte s = some b) :
    exec .gen s = .next (advanceGen (holdByte b (decide (s.phase = .digest) && decide (s.gpos = 31)) s)) :=
  execGen_eq_next.mpr ⟨hg, b, hb, rfl⟩

theorem advanceGen_of_preamble {s : State} (hp : s.phase = .preamble) :
    advanceGen s = { s with
      phase := if s.gpos = 7 then .length else .preamble
      gpos := if s.gpos = 7 then 0 else s.gpos + 1 } := by
  have h8 : s.gpos + 1 = 8 ↔ s.gpos = 7 := by bv_omega
  simp only [advanceGen, hp, h8, true_and, reduceCtorEq, false_and, if_false]
  split
  · rfl
  · rw [← hp]

theorem advanceGen_of_length {s : State} (hp : s.phase = .length) :
    advanceGen s = { s with
      phase := if s.gpos = 3 then .payload else .length
      gpos := if s.gpos = 3 then 0 else s.gpos + 1 } := by
  have h4 : s.gpos + 1 = 4 ↔ s.gpos = 3 := by bv_omega
  simp only [advanceGen, hp, h4, true_and, reduceCtorEq, false_and, if_false]
  split
  · rfl
  · rw [← hp]

theorem advanceGen_of_digest {s : State} (hp : s.phase = .digest) :
    advanceGen s = { s with gpos := s.gpos + 1 } := by
  simp only [advanceGen, hp, reduceCtorEq, false_and, if_false]

theorem preamble_getElem? {g : Nat} (hg : g < 8) : preamble[g]? = some (preamble.getD g 0) := by
  rw [List.getD_eq_getElem _ _ hg, List.getElem?_eq_getElem hg]

/-- Settles O26, phase by phase: the byte `generatedByte` names and the advance that `advanceGen` makes. -/
theorem genProducesTheNextGeneratedByte : Obligations.GenProducesTheNextGeneratedByte := by
  refine ⟨fun s hov => ⟨fun hp hg => ?preamble, fun hp hg => ?length, fun hp hg => ?digest⟩, fun s hn => ?disabled⟩
  case preamble =>
    have hb : generatedByte s = some (preamble.getD s.gpos.toNat 0) := by
      simp only [generatedByte, hp, preamble_getElem? hg]
    rw [execGen_of_generatedByte ((genEnabled_iff s).mpr ⟨hov, .inl hp⟩) hb, advanceGen_of_preamble (by exact hp)]
    simp [holdByte, hp]
  case length =>
    have hb : generatedByte s = some (byteOfWord s.length s.gpos.toNat) := by
      simp only [generatedByte, hp, if_pos hg]
    rw [execGen_of_generatedByte ((genEnabled_iff s).mpr ⟨hov, .inr (.inl hp)⟩) hb,
      advanceGen_of_length (by exact hp)]
    simp [holdByte, hp, byteOfWord]
  case digest =>
    have hb : generatedByte s = some (digestByte s.digest s.gpos.toNat) := by
      simp only [generatedByte, hp, if_pos hg]
    rw [execGen_of_generatedByte ((genEnabled_iff s).mpr ⟨hov, .inr (.inr ⟨hp, hg⟩)⟩) hb,
      advanceGen_of_digest (by exact hp)]
    simp [holdByte, hp, digestByte, byteOfWord]
  case disabled =>
    exact disabledEventsHaveNoStep _ s (Bool.eq_false_iff.mpr fun h => hn ((genEnabled_iff s).mp h))

/-! ### The frame as a byte sequence (R140 to R144) -/

theorem sha256_length (m : List Byte) : (sha256 m).length = 32 := rfl

theorem frame_length (p : List Byte) : (frame p).length = 44 + p.length := by
  simp only [frame, lengthField, List.length_append, preamble_length, be32_length, sha256_length]
  omega

/-- R143's case table is the concatenation of R140 read at an offset, field by field. -/
theorem frame_getElem? (p : List Byte) (i : Nat) : (frame p)[i]? = frameByte p i := by
  simp only [frame, lengthField, List.append_assoc, frameByte]
  split
  · exact List.getElem?_append_left (by rw [preamble_length]; omega)
  rw [List.getElem?_append_right (by rw [preamble_length]; omega), preamble_length]
  split
  · rw [List.getElem?_append_left (by rw [be32_length]; omega), be32_getElem? _ (by omega)]
  rw [List.getElem?_append_right (by rw [be32_length]; omega), be32_length, Nat.sub_sub]
  split
  · exact List.getElem?_append_left (by omega)
  rw [List.getElem?_append_right (by omega)]
  split
  · rfl
  · exact List.getElem?_eq_none (by rw [sha256_length]; omega)

/-- Settles O27: `frame_length` and `frame_getElem?`. -/
theorem frameByteAtEveryOffset : Obligations.FrameByteAtEveryOffset := fun p _ =>
  ⟨frame_length p, frame_getElem? p⟩

/-! ### The length field (R142) -/

theorem byteOfWord_toNat (v : Word) (j : Nat) : (byteOfWord v j).toNat = v.toNat / 2 ^ (24 - 8 * j) % 256 := by
  rw [byteOfWord, BitVec.extractLsb'_toNat, Nat.shiftRight_eq_div_pow]

/-- Settles O28: the bytes are the digits of `n` to base 256, and `n < 2^32` leaves the first one whole. -/
theorem lengthFieldDecodesExactly : Obligations.LengthFieldDecodesExactly := by
  intro n hn
  have hv : (BitVec.ofNat 32 n).toNat = n := by rw [BitVec.toNat_ofNat, Nat.mod_eq_of_lt hn]
  refine ⟨_, _, _, _, rfl, ?_⟩
  rw [byteOfWord_toNat, byteOfWord_toNat, byteOfWord_toNat, byteOfWord_toNat, hv]
  have hfirst : n / 2 ^ (24 - 8 * 0) % 256 = n / 2 ^ 24 := Nat.mod_eq_of_lt (by omega)
  rw [hfirst]
  exact ⟨rfl, rfl, rfl, by omega, by omega⟩

/-! ### The receiver (R149) -/

theorem wordBE_bytesOfWord (v : Word) :
    wordBE (byteOfWord v 0) (byteOfWord v 1) (byteOfWord v 2) (byteOfWord v 3) = v := by
  have join (i n : Nat) : v.extractLsb' (i + 8) n ++ v.extractLsb' i 8 = v.extractLsb' i (n + 8) :=
    BitVec.extractLsb'_append_extractLsb'_eq_extractLsb' rfl
  rw [wordBE, byteOfWord, byteOfWord, byteOfWord, byteOfWord, join 16, join 8, join 0]
  exact BitVec.extractLsb'_eq_self

/-- The receiver takes the four fields of a frame apart again; what follows the digest does not matter. -/
theorem receive_of_fields {v : Word} {p d : List Byte} (hlen : v.toNat = p.length) (hd : d.take 32 = sha256 p) :
    receive (preamble ++ (be32 v ++ (p ++ d))) = some p := by
  have htake : (preamble ++ (be32 v ++ (p ++ d))).take 8 = preamble := rfl
  have hdrop : (preamble ++ (be32 v ++ (p ++ d))).drop 8 = be32 v ++ (p ++ d) := rfl
  rw [receive, htake, hdrop, be32]
  simp only [List.cons_append, List.nil_append, wordBE_bytesOfWord, hlen, List.take_left, List.drop_left]
  exact if_pos ⟨trivial, by rw [List.length_append]; exact Nat.le_add_right _ _, hd⟩

/-- Settles O29: a frame is the four fields `receive_of_fields` asks for. -/
theorem receiverRecoversThePayload : Obligations.ReceiverRecoversThePayload := by
  intro p rest hp
  have hlen : (BitVec.ofNat 32 p.length).toNat = p.length := by rw [BitVec.toNat_ofNat, Nat.mod_eq_of_lt hp]
  have hd : (sha256 p ++ rest).take 32 = sha256 p := List.take_left' (sha256_length p)
  simp only [frame, lengthField, List.append_assoc]
  exact receive_of_fields hlen hd

/-! ### The phases (R146) -/

/-- Settles O30, event by event: the rows of R146 are the cases in which an event writes `phase`. -/
theorem phaseTransitionsAreTheListedOnes : Obligations.PhaseTransitionsAreTheListedOnes := by
  intro i s t hi h hne
  obtain ⟨-, v, rfl⟩ | rfl | ⟨v, rfl, ha, rfl⟩ | ⟨v, rfl, ha, hst, rfl⟩ | ⟨v, -, -, -, rfl⟩ | ⟨v, -, rfl⟩ |
    ⟨v, -, -, rfl⟩ | ⟨b, rfl⟩ | rfl | rfl | rfl | rfl | ⟨rfl, rfl⟩ := exec_cases h
  · exact absurd rfl hne
  · exact absurd rfl hne
  · cases hb : busy s with
    | false =>
      rw [abortOp_of_idle (by exact hb)] at hne
      exact absurd rfl hne
    | true =>
      rw [abortOp_of_busy (by exact hb)]
      exact .inr (.inr (.inr (.inr (.inr (.inr (.inl ⟨v, rfl, ha, (busy_iff s).mp hb, rfl, rfl, rfl⟩))))))
  · obtain ⟨-, e⟩ | ⟨-, -, e⟩ | ⟨hb, hc, e⟩ := startOp_cases { s with mode := ctrlMode v, irqEn := ctrlIrqEn v } <;>
      rw [e] at hne ⊢
    · exact absurd rfl hne
    · exact absurd rfl hne
    · refine .inl ⟨v, rfl, ha, hst, hc, (busy_false_iff s).mp hb, ?_⟩
      cases ctrlMode v <;> simp
  · exact absurd rfl hne
  · exact absurd rfl hne
  · exact absurd rfl hne
  · obtain ⟨-, rfl⟩ := execInXfer_eq_next.mp h
    exact absurd rfl hne
  · obtain ⟨-, rfl⟩ := execOutXfer_eq_next.mp h
    cases hol : s.ol with
    | false => exact absurd (by simp [hol]) hne
    | true => exact .inr (.inr (.inr (.inr (.inr (.inl ⟨rfl, (hi.i3 hol).2.1, rfl, rfl, rfl⟩)))))
  · obtain ⟨b, -, -, ⟨hp, hg, rfl⟩ | ⟨hp, hg, rfl⟩ | ⟨-, rfl⟩ | ⟨-, -, rfl⟩⟩ := execGen_cases h
    · exact .inr (.inl ⟨rfl, hp, by bv_omega, rfl⟩)
    · exact .inr (.inr (.inl ⟨rfl, hp, by bv_omega, rfl⟩))
    · exact absurd rfl hne
    · exact absurd rfl hne
  · obtain ⟨-, block, -, rfl⟩ := execCompress_eq_next.mp h
    exact absurd rfl hne
  · obtain ⟨hf, block, -, rfl⟩ := execFinalize_eq_next.mp h
    have hp := ((finalizeEnabled_iff s).mp hf).1
    cases hm : s.modeq with
    | frame => exact .inr (.inr (.inr (.inl ⟨rfl, hp, rfl, rfl⟩)))
    | digestOnly => exact .inr (.inr (.inr (.inr (.inl ⟨rfl, hp, rfl, rfl, rfl⟩))))
  · exact .inr (.inr (.inr (.inr (.inr (.inr (.inr ⟨rfl, rfl⟩))))))

/-! ### Completed operations (R147, R148) -/

theorem Inv.idle_of_done {s : State} (hi : Inv s) (hd : s.done = true) : s.phase = .idle :=
  (busy_false_iff s).mp (Bool.of_not_eq_true fun hb => by simp [hi.i5 hb] at hd)

theorem Functional.digest_bytes_of_done {s : State} (hs : Functional s) (hd : s.done = true) :
    s.digest.bytes = sha256 s.message := congrArg Hash.bytes (hs.doneDigest hd)

/-- Settles O31: (I5) of R40 and what `Functional` says of DONE. -/
theorem completedFrameOperationDeliveredItsFrame : Obligations.CompletedFrameOperationDeliveredItsFrame :=
  fun _ hr hd hm =>
    ⟨hr.inv.idle_of_done hd, hr.functional.doneFrame hd hm, hr.functional.digest_bytes_of_done hd⟩

/-- Settles O32: `Functional`, in the state itself and after FINALIZE, which completes a DIGEST_ONLY operation. -/
theorem completedDigestOperationDeliveredNothing : Obligations.CompletedDigestOperationDeliveredNothing := by
  intro s hr hm
  have hsilent := hr.functional.silent hm
  refine ⟨hsilent, fun t h => ?_, fun hd => ⟨hr.inv.idle_of_done hd, hr.functional.digest_bytes_of_done hd⟩⟩
  have hdigest := (hr.act .finalize h).functional.digest_bytes_of_done
  obtain ⟨-, block, -, rfl⟩ := execFinalize_eq_next.mp h
  simp only [hm, reduceCtorEq, if_false] at hdigest ⊢
  exact ⟨trivial, trivial, hsilent, trivial, hdigest trivial⟩

/-! ### What carries a running operation on (R271) -/

theorem carriesOn_iff {i : Instr} :
    carriesOn i ↔ (∃ b, i = .inXfer b) ∨ i = .outXfer ∨ i = .gen ∨ i = .compress ∨ i = .finalize := by
  cases i <;> simp [carriesOn, agentOf]

/-- In every busy state a transfer or an engine action is enabled. -/
theorem Inv.exists_enabled {s : State} (hi : Inv s) (hb : busy s = true) :
    inReady s = true ∨ s.ov = true ∨ ∃ a : EngineAction, enabled a.event s = true := by
  cases hov : s.ov with
  | true => exact .inr (.inl rfl)
  | false =>
    cases hp : s.phase with
    | idle => exact absurd hp ((busy_iff s).mp hb)
    | preamble => exact .inr (.inr ⟨.gen, (genEnabled_iff s).mpr ⟨hov, .inl hp⟩⟩)
    | length => exact .inr (.inr ⟨.gen, (genEnabled_iff s).mpr ⟨hov, .inr (.inl hp)⟩⟩)
    | payload =>
      have hfill := hi.i1_range
      have hcount := hi.i4_count hb
      by_cases hfull : s.fill = 64
      · exact .inr (.inr ⟨.compress, (compressEnabled_iff s).mpr ⟨hp, hfull⟩⟩)
      · have hroom : s.fill < 64 := by bv_omega
        by_cases hall : s.nin = s.length
        · exact .inr (.inr ⟨.finalize, (finalizeEnabled_iff s).mpr ⟨hp, hall, hroom⟩⟩)
        · exact .inl ((inReady_iff s).mpr ⟨hp, by bv_omega, hroom, .inr hov⟩)
    | digest =>
      have hg := hi.gposDigest hp
      have hlast : s.gpos ≠ 32 := fun h => by simp [(hi.lastHeld hp h).1] at hov
      exact .inr (.inr ⟨.gen, (genEnabled_iff s).mpr ⟨hov, .inr (.inr ⟨hp, by bv_omega⟩)⟩⟩)

theorem workLeft_of_idle {s : State} (hp : s.phase = .idle) : workLeft s = 0 := if_pos hp

theorem workLeft_of_busy {s : State} (hp : s.phase ≠ .idle) :
    workLeft s = 2 * generatedLeft s + (if s.ov then 1 else 0) + 3 * (s.length.toNat - s.nin.toNat) + s.fill.toNat
      + (if s.phase = .digest then 0 else 1) := if_neg hp

theorem workLeft_inXfer {b : Byte} {s t : State} (h : exec (.inXfer b) s = .next t) : workLeft t < workLeft s := by
  obtain ⟨hr, rfl⟩ := execInXfer_eq_next.mp h
  obtain ⟨hp, hnin, hfill, hmode⟩ := (inReady_iff s).mp hr
  have hfill' : (s.fill + 1).toNat = s.fill.toNat + 1 := by bv_omega
  have hnin' : (s.nin + 1).toNat = s.nin.toNat + 1 := by bv_omega
  have hlt : s.nin.toNat < s.length.toNat := hnin
  rw [workLeft_of_busy (by simp [hp]), workLeft_of_busy (by simp [hp])]
  simp only [generatedLeft, hp, hfill', hnin']
  cases hm : s.modeq with
  | frame =>
    have hov : s.ov = false := by simpa [hm] using hmode
    simp only [hov, reduceCtorEq, Bool.false_eq_true, if_true, if_false]
    omega
  | digestOnly =>
    simp only [reduceCtorEq, if_false]
    omega

theorem workLeft_outXfer {s t : State} (hi : Inv s) (h : exec .outXfer s = .next t) : workLeft t < workLeft s := by
  obtain ⟨hov, rfl⟩ := execOutXfer_eq_next.mp h
  have hp : s.phase ≠ .idle := fun hp => by simp [(hi.i2 hp).1] at hov
  rw [workLeft_of_busy hp]
  cases hol : s.ol with
  | true =>
    rw [workLeft_of_idle rfl, hov]
    simp
  | false =>
    rw [workLeft_of_busy (by exact hp)]
    simp [hov, generatedLeft]

/-- GEN takes one byte off what is left to generate, also where it moves on to the next field of the frame. -/
theorem generatedLeft_gen {s t : State} (hi : Inv s) (h : exec .gen s = .next t) :
    generatedLeft t + 1 = generatedLeft s := by
  obtain ⟨b, -, -, hcases⟩ := execGen_cases h
  obtain ⟨hp, hg, rfl⟩ | ⟨hp, hg, rfl⟩ | ⟨⟨hp, -⟩ | ⟨hp, -⟩, rfl⟩ | ⟨hp, hg, rfl⟩ := hcases <;>
    simp only [generatedLeft, hp]
  · bv_omega
  · bv_omega
  · have hlt := hi.gposPreamble hp
    bv_omega
  · have hlt := hi.gposLength hp
    bv_omega
  · bv_omega

theorem workLeft_gen {s t : State} (hi : Inv s) (h : exec .gen s = .next t) : workLeft t < workLeft s := by
  have hleft := generatedLeft_gen hi h
  obtain ⟨b, -, hov, hcases⟩ := execGen_cases h
  obtain ⟨hp, -, rfl⟩ | ⟨hp, -, rfl⟩ | ⟨⟨hp, -⟩ | ⟨hp, -⟩, rfl⟩ | ⟨hp, -, rfl⟩ := hcases <;>
    simp only [workLeft, hp, hov, reduceCtorEq, Bool.false_eq_true, if_true, if_false] at hleft ⊢ <;>
    omega

theorem workLeft_compress {s t : State} (h : exec .compress s = .next t) : workLeft t < workLeft s := by
  obtain ⟨hc, block, -, rfl⟩ := execCompress_eq_next.mp h
  obtain ⟨hp, hfill⟩ := (compressEnabled_iff s).mp hc
  simp [workLeft, generatedLeft, hp, hfill]

theorem workLeft_finalize {s t : State} (h : exec .finalize s = .next t) : workLeft t < workLeft s := by
  obtain ⟨hf, block, -, rfl⟩ := execFinalize_eq_next.mp h
  obtain ⟨hp, -, -⟩ := (finalizeEnabled_iff s).mp hf
  cases s.modeq <;> simp [workLeft, generatedLeft, hp]

/-- `workLeft` is a measure of a running operation. -/
theorem workLeft_lt {i : Instr} {s t : State} (hi : Inv s) (hc : carriesOn i) (h : exec i s = .next t) :
    workLeft t < workLeft s := by
  obtain ⟨b, rfl⟩ | rfl | rfl | rfl | rfl := carriesOn_iff.mp hc
  · exact workLeft_inXfer h
  · exact workLeft_outXfer hi h
  · exact workLeft_gen hi h
  · exact workLeft_compress h
  · exact workLeft_finalize h

/-! ### Sending a payload (R147, R256) -/

/-- What carries an operation on leaves its configuration and the error record, and only IN extends the message. -/
theorem carriesOn_frame {i : Instr} {s t : State} (hc : carriesOn i) (h : exec i s = .next t) :
    t.modeq = s.modeq ∧ t.length = s.length ∧ t.err = s.err ∧ t.irqEn = s.irqEn ∧
      (t.message = s.message ∨ ∃ b, i = .inXfer b ∧ t.message = s.message ++ [b]) := by
  obtain ⟨b, rfl⟩ | rfl | rfl | rfl | rfl := carriesOn_iff.mp hc
  · obtain ⟨-, rfl⟩ := execInXfer_eq_next.mp h
    exact ⟨rfl, rfl, rfl, rfl, .inr ⟨b, rfl, rfl⟩⟩
  · obtain ⟨-, rfl⟩ := execOutXfer_eq_next.mp h
    exact ⟨rfl, rfl, rfl, rfl, .inl rfl⟩
  · obtain ⟨b, last, p, g, rfl, -⟩ := gen_frame h
    exact ⟨rfl, rfl, rfl, rfl, .inl rfl⟩
  · obtain ⟨-, block, -, rfl⟩ := execCompress_eq_next.mp h
    exact ⟨rfl, rfl, rfl, rfl, .inl rfl⟩
  · obtain ⟨-, block, -, rfl⟩ := execFinalize_eq_next.mp h
    exact ⟨rfl, rfl, rfl, rfl, .inl rfl⟩

/-- A FRAME operation on `p`, with or without its interrupt: what is accepted so far is the beginning of `p`. -/
structure Framing (p : List Byte) (irqWanted : Bool) (s : State) : Prop where
  reachable : Reachable s
  modeq : s.modeq = .frame
  length : s.length.toNat = p.length
  accepted : s.message <+: p
  noError : s.err = false
  irqEn : s.irqEn = irqWanted

/-- The producer offers the next byte of `p`. -/
def offersNext (p : List Byte) (s : State) (i : Instr) : Prop := ∀ b, i = .inXfer b → s.message ++ [b] <+: p

section
variable {p : List Byte} {irqWanted : Bool} {s t : State} {i : Instr}

theorem Framing.act (hs : Framing p irqWanted s) (hc : carriesOn i) (hnext : offersNext p s i)
    (h : exec i s = .next t) : Framing p irqWanted t := by
  obtain ⟨hm, hlen, herr, hirq, hmsg⟩ := carriesOn_frame hc h
  refine ⟨hs.reachable.act i h, hm.trans hs.modeq, hlen ▸ hs.length, ?_, herr.trans hs.noError, hirq.trans hs.irqEn⟩
  obtain hmsg | ⟨b, hb, hmsg⟩ := hmsg
  · exact hmsg ▸ hs.accepted
  · exact hmsg ▸ hnext b hb

/-- While IN is enabled `p` has a next byte. -/
theorem Framing.exists_next (hs : Framing p irqWanted s) (hr : inReady s = true) : ∃ b, s.message ++ [b] <+: p := by
  obtain ⟨hp, hnin, -, -⟩ := (inReady_iff s).mp hr
  have hcount := hs.reachable.functional.counted ((busy_iff s).mpr (by simp [hp]))
  have hlt : s.nin.toNat < s.length.toNat := hnin
  obtain ⟨rest, hrest⟩ := hs.accepted
  cases rest with
  | nil =>
    have hwhole : s.message.length = p.length := by rw [← hrest, List.append_nil]
    have hlen := hs.length
    omega
  | cons b rest => exact ⟨b, rest, by rw [← hrest, List.append_assoc]; rfl⟩

/-- A running operation can be carried on, with a byte of `p` where it waits for one. -/
theorem Framing.exists_exec (hs : Framing p irqWanted s) (hb : busy s = true) :
    ∃ i t, carriesOn i ∧ offersNext p s i ∧ exec i s = .next t := by
  have hi := hs.reachable.inv
  obtain ⟨i, hc, hnext, hen⟩ : ∃ i, carriesOn i ∧ offersNext p s i ∧ enabled i s = true := by
    obtain hr | hov | ⟨a, ha⟩ := hi.exists_enabled hb
    · obtain ⟨b, hnext⟩ := hs.exists_next hr
      exact ⟨.inXfer b, .inl rfl, fun c hc => Instr.inXfer.inj hc ▸ hnext, hr⟩
    · exact ⟨.outXfer, .inr (.inl rfl), nofun, hov⟩
    · cases a with
      | gen => exact ⟨.gen, .inr (.inr rfl), nofun, ha⟩
      | compress => exact ⟨.compress, .inr (.inr rfl), nofun, ha⟩
      | finalize => exact ⟨.finalize, .inr (.inr rfl), nofun, ha⟩
  obtain ⟨t, ht⟩ := everyEnabledEventCompletes i s hi hen
  exact ⟨i, t, hc, hnext, ht⟩

/-- The operation ends with the delivery of the last byte only (R146), when the whole of `p` has been accepted. -/
theorem Framing.done_of_idle (hs : Framing p irqWanted s) (hb : busy s = true) (hc : carriesOn i)
    (h : exec i s = .next t) (hidle : t.phase = .idle) : t.done = true ∧ t.message = p := by
  have hi := hs.reachable.inv
  have hne : t.phase ≠ s.phase := fun e => (busy_iff s).mp hb (e ▸ hidle)
  obtain ⟨hp, hd, hmsg⟩ : s.phase = .digest ∧ t.done = true ∧ t.message = s.message := by
    obtain ⟨v, rfl, -⟩ | ⟨-, -, -, hp⟩ | ⟨-, -, -, hp⟩ | ⟨-, -, -, hp⟩ | ⟨-, -, hm, -⟩ | ⟨rfl, hp, -, -, hd⟩ |
      ⟨v, rfl, -⟩ | ⟨rfl, -⟩ := phaseTransitionsAreTheListedOnes i s t hi h hne
    · simp [carriesOn, agentOf] at hc
    · simp [hidle] at hp
    · simp [hidle] at hp
    · simp [hidle] at hp
    · simp [hs.modeq] at hm
    · obtain ⟨-, rfl⟩ := execOutXfer_eq_next.mp h
      exact ⟨hp, hd, rfl⟩
    · simp [carriesOn, agentOf] at hc
    · simp [carriesOn, agentOf] at hc
  refine ⟨hd, hmsg.trans (hs.accepted.eq_of_length ?_)⟩
  rw [hs.reachable.functional.counted hb, hi.countAfter hp, hs.length]

/-- Some order of transfers and engine actions completes the operation: each leaves less work (`workLeft_lt`). -/
theorem Framing.completes (hs : Framing p irqWanted s) (hb : busy s = true) :
    ∃ is t, (∀ i ∈ is, carriesOn i) ∧ execAll is s = .next t ∧ Framing p irqWanted t ∧
      t.phase = .idle ∧ t.done = true ∧ t.message = p := by
  induction hn : workLeft s using Nat.strong_induction_on generalizing s with
  | _ n ih =>
    obtain ⟨i, u, hc, hnext, hu⟩ := hs.exists_exec hb
    have hfu := hs.act hc hnext hu
    cases hbu : busy u with
    | false =>
      have hidle := (busy_false_iff u).mp hbu
      exact ⟨[i], u, by simpa using hc, by rw [execAll_singleton, hu], hfu, hidle, hs.done_of_idle hb hc hu hidle⟩
    | true =>
      obtain ⟨is, t, his, ht, hend⟩ := ih _ (hn ▸ workLeft_lt hs.reachable.inv hc hu) hfu hbu rfl
      exact ⟨i :: is, t, List.forall_mem_cons.mpr ⟨hc, his⟩, by rw [execAll_cons, hu, andThen_next, ht], hend⟩

end

/-- The host's two writes of R256 begin a FRAME operation. -/
theorem execAll_startFrameOperation {s : State} (hp : s.phase = .idle) (hc : s.cfg.shaPresent = true) (n : Word)
    (irqWanted : Bool) :
    execAll (startFrameOperation n irqWanted) s = .next
      (acceptStart { s with length := n, mode := .frame, irqEn := irqWanted }) := by
  have hb : busy s = false := (busy_false_iff s).mpr hp
  have hstart : exec (.csrWrCtrl (if irqWanted then 0x9 else 0x1)) { s with length := n } =
      .next (startOp { s with length := n, mode := .frame, irqEn := irqWanted }) := by
    cases irqWanted <;> rfl
  have hevents : startFrameOperation n irqWanted = [.csrWrLength n, .csrWrCtrl (if irqWanted then 0x9 else 0x1)] := by
    cases irqWanted <;> rfl
  rw [hevents, execAll_cons, exec_csrWrLength, hb, if_neg Bool.false_ne_true, andThen_next, execAll_singleton, hstart,
    startOp_of_accepted (by exact hb) (by exact hc)]

/-- Settles O34: after the START the operation is one of `Framing`, which completes. -/
theorem everyPayloadCanBeFramed : Obligations.EveryPayloadCanBeFramed := by
  intro s p irqWanted hr hp hc hlen
  have hstart := execAll_startFrameOperation hp hc (BitVec.ofNat 32 p.length) irqWanted
  have hframing : Framing p irqWanted
      (acceptStart { s with length := BitVec.ofNat 32 p.length, mode := .frame, irqEn := irqWanted }) :=
    { reachable := hr.of_execAll hstart
      modeq := rfl
      length := by rw [acceptStart_length, BitVec.toNat_ofNat, Nat.mod_eq_of_lt hlen]
      accepted := List.nil_prefix
      noError := rfl
      irqEn := rfl }
  obtain ⟨is, t, his, ht, hend, hidle, hd, hmsg⟩ := hframing.completes rfl
  have hs := hend.reachable.functional
  refine ⟨is, t, his, by rw [execAll_append, hstart, andThen_next, ht], hidle, hd, hend.noError, ?_, hmsg, ?_, ?_⟩
  · simp [irq, hd, hend.irqEn]
  · rw [hs.doneFrame hd hend.modeq, hmsg]
  · rw [hs.digest_bytes_of_done hd, hmsg]

end Sys2Proof.Machine
end

section
/-! The stream ports family (spec/42_stream_ports.md R160 to R165): the two transfers, how long a held byte stays, and
the output ports. -/

namespace Sys2Proof.Machine

/-! ### InXfer (R161, R162) -/

/-- Settles O35: the inversion lemma where `in_ready` is 1 (`inReady_iff`), the refusal where it is 0. -/
theorem inXferTakesTheByte : Obligations.InXferTakesTheByte := by
  refine ⟨fun b s hp hnin hfill hmode => ?_, fun b s hn => ?_⟩
  · have hready : inReady s = true := (inReady_iff s).mpr ⟨hp, hnin, hfill, hmode⟩
    have hfill' : (s.fill + 1).toNat = s.fill.toNat + 1 := by bv_omega
    have hnin' : (s.nin + 1).toNat = s.nin.toNat + 1 := by bv_omega
    exact ⟨_, execInXfer_eq_next.mpr ⟨hready, rfl⟩, s.buf.read_write_same _ b, fun _ => s.buf.read_write_other b,
      hfill', hnin', rfl⟩
  · exact disabledEventsHaveNoStep _ s (Bool.eq_false_iff.mpr fun hready => hn ((inReady_iff s).mp hready))

/-! ### OutXfer (R164) -/

/-- Settles O36: the inversion lemma for either value of the last flag, and the refusal where nothing is held. -/
theorem outXferDeliversTheHeldByte : Obligations.OutXferDeliversTheHeldByte := by
  refine ⟨fun s hov hol => ?_, fun s hov hol => ?_, fun s hov => disabledEventsHaveNoStep .outXfer s hov⟩
  · exact execOutXfer_eq_next.mpr ⟨hov, by simp [hol]⟩
  · exact execOutXfer_eq_next.mpr ⟨hov, by simp [hol]⟩

/-! ### The held byte (R165) -/

theorem startOp_keeps_held (s : State) :
    (startOp s).ov = s.ov ∧ (startOp s).od = s.od ∧ (startOp s).ol = s.ol := by
  obtain ⟨-, e⟩ | ⟨-, -, e⟩ | ⟨-, -, e⟩ := startOp_cases s <;> rw [e] <;> exact ⟨rfl, rfl, rfl⟩

/-- While a byte is held IN is ready in DIGEST_ONLY mode alone (R161), where it does not write the register. -/
theorem inXfer_keeps_held {b : Byte} {s t : State} (hov : s.ov = true) (h : exec (.inXfer b) s = .next t) :
    t.ov = s.ov ∧ t.od = s.od ∧ t.ol = s.ol := by
  obtain ⟨hready, rfl⟩ := execInXfer_eq_next.mp h
  obtain ⟨-, -, -, hmode | hempty⟩ := (inReady_iff s).mp hready
  · simp [hmode]
  · simp [hov] at hempty

/-- Settles O37, by the cases of `exec_cases`: the two events that load the register, IN in FRAME mode and GEN, need it
empty. -/
theorem heldByteIsStableUntilTransferred : Obligations.HeldByteIsStableUntilTransferred := by
  intro i s t hov h
  obtain ⟨-, v, rfl⟩ | rfl | ⟨v, rfl, ha, rfl⟩ | ⟨v, -, -, -, rfl⟩ | ⟨v, -, -, -, rfl⟩ | ⟨v, -, rfl⟩ | ⟨v, -, -, rfl⟩ |
    ⟨b, rfl⟩ | rfl | rfl | rfl | rfl | ⟨rfl, rfl⟩ := exec_cases h
  · exact .inl ⟨hov, rfl, rfl⟩
  · exact .inl ⟨hov, rfl, rfl⟩
  · cases hb : busy s with
    | false =>
      rw [abortOp_of_idle (by exact hb)]
      exact .inl ⟨hov, rfl, rfl⟩
    | true =>
      rw [abortOp_of_busy (by exact hb)]
      exact .inr ⟨rfl, .inr (.inl ⟨v, rfl, ha⟩)⟩
  · obtain ⟨hov', hheld⟩ := startOp_keeps_held { s with mode := ctrlMode v, irqEn := ctrlIrqEn v }
    exact .inl ⟨hov'.trans hov, hheld⟩
  · exact .inl ⟨hov, rfl, rfl⟩
  · exact .inl ⟨hov, rfl, rfl⟩
  · exact .inl ⟨hov, rfl, rfl⟩
  · obtain ⟨hov', hheld⟩ := inXfer_keeps_held hov h
    exact .inl ⟨hov'.trans hov, hheld⟩
  · obtain ⟨-, rfl⟩ := execOutXfer_eq_next.mp h
    exact .inr ⟨rfl, .inl rfl⟩
  · obtain ⟨hgen, -⟩ := execGen_eq_next.mp h
    simp [genEnabled_eq_false_of_held hov] at hgen
  · obtain ⟨-, block, -, rfl⟩ := execCompress_eq_next.mp h
    exact .inl ⟨hov, rfl, rfl⟩
  · obtain ⟨-, block, -, rfl⟩ := execFinalize_eq_next.mp h
    exact .inl ⟨hov, rfl, rfl⟩
  · exact .inr ⟨rfl, .inr (.inr rfl)⟩

/-! ### The output ports (R160, R163, R251) -/

/-- In a cycle that reads, `csr_rdata` is the value the read event returns (R160). -/
theorem csrRdataPort_of_read {p : CycleIn} {s : State} {v : Word} (hr : p.rstN = true) (hre : p.csrRe = true)
    (h : exec (readEvent p.csrAddr) s = .next (returnValue v s)) : csrRdataPort p s = v := by
  simp [csrRdataPort, hr, hre, h]

theorem outputs_of_running {p : CycleIn} (hr : p.rstN = true) (s : State) :
    outputs p s = ⟨csrRdataPort p s, inReady s, s.ov, s.od, s.ol, irq s⟩ := by
  simp [outputs, outDataPort_of_running hr, hr]

theorem outputs_of_reset {p : CycleIn} (hr : p.rstN = false) (s : State) :
    outputs p s = ⟨csrRdataPort p s, false, false, outDataPort p s, false, false⟩ := by
  simp [outputs, hr]

theorem cycle_of_reset {p : CycleIn} (hr : p.rstN = false) (s : State) :
    cycle p s = .next { State.resetFor s.cfg with events := s.events, draws := s.draws + 1 } :=
  cycle_eq_next.mpr ⟨by simp [CycleIn.admissible, hr], _, by rw [cycleEvents_of_reset hr, execAll_singleton]; rfl, rfl⟩

/-- Settles O60: the ports out of reset and in it, and the cycle in reset, which is RESET. -/
theorem outputPortsFollowTheState : Obligations.OutputPortsFollowTheState := by
  intro p s
  refine ⟨fun hr => ?_, fun hr => ?_⟩
  · rw [outputs_of_running hr]
    refine ⟨rfl, rfl, rfl, rfl, rfl, fun hre => ?_⟩
    obtain ⟨v, hv⟩ := exec_of_isCsrRead (isCsrRead_readEvent p.csrAddr) s
    rw [csrRdataPort_of_read hr hre hv]
    exact hv
  · rw [outputs_of_reset hr]
    exact ⟨rfl, rfl, rfl, rfl, _, cycle_of_reset hr s, rfl, rfl, rfl⟩

end Sys2Proof.Machine
end

section
/-! The control registers family (spec/43_control_registers.md R170 to R195): what each CSR read returns, with the fields
of the CTRL and STATUS words, and what each CSR write does. -/

namespace Sys2Proof.Machine

/-! ### The fields of the CTRL and STATUS words (R174, R175) -/

theorem Mode.bit_eq_decide (m : Mode) : m.bit = decide (m = .digestOnly) := by cases m <;> rfl

/-- A flag placed at position `n` is that bit of the word, and no other bit. -/
theorem getLsbD_bitAt (b : Bool) {n : Nat} (hn : n < 32) (i : Nat) :
    (bitAt b n).getLsbD i = (decide (i = n) && b) := by
  rw [bitAt, BitVec.getLsbD_shiftLeft, BitVec.getLsbD_setWidth, BitVec.getLsbD_ofBool]
  by_cases h : i = n
  · simp [h, hn]
  · by_cases hlt : i < n
    · simp [h, hlt]
    · simp [h, show i - n ≠ 0 by omega]

/-- A code placed at positions `n` to `n + w - 1` is those bits of the word, and no others. -/
theorem getLsbD_codeAt {w : Nat} (c : BitVec w) {n : Nat} (hw : n + w ≤ 32) (i : Nat) :
    (c.setWidth 32 <<< n).getLsbD i = (decide (n ≤ i) && c.getLsbD (i - n)) := by
  rw [BitVec.getLsbD_shiftLeft, BitVec.getLsbD_setWidth]
  by_cases hlt : i < n
  · simp [hlt]
  · by_cases hi : i < 32
    · simp [hi, hlt, show n ≤ i by omega, show i - n < 32 by omega]
    · simp [hi, c.getLsbD_of_ge (i - n) (by omega)]

theorem getLsbD_ctrlWord (s : State) (i : Nat) :
    (ctrlWord s).getLsbD i = ((decide (i = 1) && s.mode.bit) || (decide (i = 3) && s.irqEn)) := by
  rw [ctrlWord, BitVec.getLsbD_or, getLsbD_bitAt _ (by decide), getLsbD_bitAt _ (by decide), Bool.or_comm]

/-- Every bit of the STATUS word is of one field, by the positions of R175. -/
theorem getLsbD_statusWord (s : State) (i : Nat) :
    (statusWord s).getLsbD i =
      ((decide (i = 0) && busy s) || (decide (i = 1) && s.done) || (decide (i = 2) && s.err) ||
        (decide (4 ≤ i) && s.errcode.code.getLsbD (i - 4)) || (decide (8 ≤ i) && s.phase.code.getLsbD (i - 8)) ||
        (decide (i = 11) && s.modeq.bit) || (decide (i = 12) && s.ov) || (decide (i = 13) && inReady s)) := by
  simp only [statusWord, BitVec.getLsbD_or, getLsbD_bitAt, getLsbD_codeAt, Nat.reduceAdd, Nat.reduceLT,
    Nat.reduceLeDiff]

/-- Bits 7:4 of the STATUS word are ERRCODE (R175). -/
theorem extractLsb'_statusWord_errcode (s : State) : (statusWord s).extractLsb' 4 4 = s.errcode.code := by
  refine BitVec.eq_of_getLsbD_eq fun i hi => ?_
  rw [BitVec.getLsbD_extractLsb', getLsbD_statusWord]
  interval_cases i <;> simp

/-- Bits 10:8 of the STATUS word are PHASE (R175). -/
theorem extractLsb'_statusWord_phase (s : State) : (statusWord s).extractLsb' 8 3 = s.phase.code := by
  refine BitVec.eq_of_getLsbD_eq fun i hi => ?_
  rw [BitVec.getLsbD_extractLsb', getLsbD_statusWord]
  interval_cases i <;> simp

theorem getLsbD_statusWord_of_ge (s : State) {i : Nat} (hi : 14 ≤ i) : (statusWord s).getLsbD i = false := by
  rw [getLsbD_statusWord, s.errcode.code.getLsbD_of_ge _ (by omega), s.phase.code.getLsbD_of_ge _ (by omega)]
  simp
  omega

/-- Settles O39: the two words bit by bit, and the STATUS word's codes field by field. -/
theorem ctrlAndStatusReadsPlaceTheirFields : Obligations.CtrlAndStatusReadsPlaceTheirFields := by
  refine ⟨fun s => ⟨ctrlWord s, rfl, fun n => ?_⟩, fun s => ⟨statusWord s, rfl, ?_⟩⟩
  · rw [getLsbD_ctrlWord, Mode.bit_eq_decide]
  · rw [extractLsb'_statusWord_errcode, extractLsb'_statusWord_phase]
    have herr {e : ErrCode} (h : s.errcode = e) : s.errcode.code = e.code := congrArg _ h
    have hphase {p : Phase} (h : s.phase = p) : s.phase.code = p.code := congrArg _ h
    refine ⟨?_, ?_, ?_, ?_, herr, herr, herr, herr, herr, hphase, hphase, hphase, hphase, hphase, ?_, ?_, ?_,
      fun _ => getLsbD_statusWord_of_ge s⟩
    all_goals
      rw [getLsbD_statusWord]
      simp [busy, Mode.bit_eq_decide]

/-! ### The other reads (R171, R173, R176 to R181) -/

/-- Settles O38: each read answers `returnValue` of its register, by its own definition. -/
theorem readsReturnTheirRegisters : Obligations.ReadsReturnTheirRegisters := fun _ =>
  ⟨rfl, rfl, rfl, rfl, fun _ => rfl, fun _ => rfl, fun _ => rfl, rfl, rfl, rfl, rfl, rfl, rfl, rfl, rfl⟩

/-- Recording a read's value changes nothing that a read depends on (R171). -/
theorem exec_returnValue_of_isCsrRead {i : Instr} (hi : isCsrRead i = true) {s : State} {v : Word}
    (h : exec i s = .next (returnValue v s)) (w : Word) :
    exec i (returnValue w s) = .next (returnValue v s) := by
  cases i with
  | csrRdId | csrRdCtrl | csrRdStatus | csrRdLength | csrRdCount | csrRdCaps | csrRdRsvd | csrRdDigest
  | csrRdUnmappedLow | csrRdUnmappedHigh => exact h
  | csrWrId | csrWrCtrl | csrWrStatus | csrWrLength | csrWrCount | csrWrCaps | csrWrRsvd | csrWrDigest
  | csrWrUnmappedLow | csrWrUnmappedHigh | inXfer | outXfer | gen | compress | finalize | reset =>
    exact absurd hi Bool.false_ne_true

/-- Settles O40: a read only records its value (`exec_of_isCsrRead`), and no read depends on that record. -/
theorem readsHaveNoSideEffectAndRepeat : Obligations.ReadsHaveNoSideEffectAndRepeat := by
  intro i s hi
  obtain ⟨v, hv⟩ := exec_of_isCsrRead hi s
  exact ⟨_, hv, rfl, rfl, exec_returnValue_of_isCsrRead hi hv v⟩

/-! ### Writes of read-only locations, LENGTH and STATUS (R182 to R195) -/

/-- Settles O41: each of these writes answers its state, by its own definition. -/
theorem writesToReadOnlyLocationsChangeNothing : Obligations.WritesToReadOnlyLocationsChangeNothing := fun _ _ =>
  ⟨rfl, rfl, rfl, fun _ => rfl, fun _ => rfl, fun _ => rfl, fun _ => rfl⟩

/-- Settles O42, by `exec_csrWrLength`. -/
theorem lengthIsWrittenOnlyWhenIdle : Obligations.LengthIsWrittenOnlyWhenIdle := by
  intro s v
  rw [exec_csrWrLength]
  refine ⟨fun hp => ?_, fun hp => ?_⟩
  · simp [(busy_false_iff s).mpr hp]
  · simp [(busy_iff s).mpr hp]

/-- Settles O43, by `exec_csrWrStatus`: clearing a flag when its bit is 1 is masking it with the bit's complement. -/
theorem statusWriteClearsTheOnes : Obligations.StatusWriteClearsTheOnes := by
  intro s v
  have hmask (b c : Bool) : (if c then false else b) = (b && !c) := by cases b <;> cases c <;> rfl
  rw [exec_csrWrStatus, hmask, hmask]
  rfl

/-! ### Writes of CTRL (R186 to R188) -/

/-- The state a CTRL write hands to its command: MODE and IRQ_EN are written first (R186). -/
def withCtrl (v : Word) (s : State) : State := { s with mode := ctrlMode v, irqEn := ctrlIrqEn v }

theorem exec_csrWrCtrl_of_abort {v : Word} (ha : ctrlAbort v = true) (s : State) :
    exec (.csrWrCtrl v) s = .next (abortOp (withCtrl v s)) := by
  rw [exec_csrWrCtrl, if_pos ha]
  rfl

theorem exec_csrWrCtrl_of_start {v : Word} (ha : ctrlAbort v = false) (hst : ctrlStart v = true) (s : State) :
    exec (.csrWrCtrl v) s = .next (startOp (withCtrl v s)) := by
  rw [exec_csrWrCtrl, if_neg (by simp [ha]), if_pos hst]
  rfl

theorem exec_csrWrCtrl_of_noCommand {v : Word} (ha : ctrlAbort v = false) (hst : ctrlStart v = false) (s : State) :
    exec (.csrWrCtrl v) s = .next (withCtrl v s) := by
  rw [exec_csrWrCtrl, if_neg (by simp [ha]), if_neg (by simp [hst])]
  rfl

/-- Settles O44, by `exec_csrWrCtrl_of_noCommand`. -/
theorem ctrlWriteWithoutCommandWritesModeAndIrqEn : Obligations.CtrlWriteWithoutCommandWritesModeAndIrqEn :=
  fun s _ ha hst => exec_csrWrCtrl_of_noCommand ha hst s

/-- Settles O45: the two cases of `abortOp` in the state with the new MODE and IRQ_EN. -/
theorem abortReturnsToIdleAndRecords : Obligations.AbortReturnsToIdleAndRecords := by
  intro s v ha
  rw [exec_csrWrCtrl_of_abort ha]
  refine ⟨fun hp => ?_, fun hp => ?_⟩
  · rw [abortOp_of_busy ((busy_iff (withCtrl v s)).mpr hp)]
    rfl
  · rw [abortOp_of_idle ((busy_false_iff (withCtrl v s)).mpr hp)]
    rfl

/-- An accepted START enters PREAMBLE in FRAME mode and PAYLOAD in DIGEST_ONLY mode (R188). -/
theorem startPhase_eq (b : Bool) :
    (if Mode.ofBit b = .frame then Phase.preamble else .payload) = if b then .payload else .preamble := by
  cases b <;> rfl

/-- Settles O46: the three cases of `startOp` in the state with the new MODE and IRQ_EN. -/
theorem startIsRefusedOrBeginsAnOperation : Obligations.StartIsRefusedOrBeginsAnOperation := by
  intro s v ha hst
  refine ⟨fun hp => ?_, fun hp hc => ?_, fun hp hc => ?_⟩
  · rw [exec_csrWrCtrl_of_start ha hst, startOp_of_busy ((busy_iff (withCtrl v s)).mpr hp)]
    rfl
  · exact execStart_of_withoutSha ((busy_false_iff s).mpr hp) hc ha hst
  · rw [exec_csrWrCtrl_of_start ha hst, startOp_of_accepted ((busy_false_iff (withCtrl v s)).mpr hp) hc,
      ← startPhase_eq]
    rfl

end Sys2Proof.Machine
end

section
/-! The exceptions family (spec/60_exceptions.md R220 to R232): the error record and its causes, the interrupt output,
and a completion in the cycle of a register write. -/

namespace Sys2Proof.Machine

/-! ### The error record (R220 to R226) -/

/-- The event `i`, in state `s`, is a cause for recording the error code `c` (R220, R224 to R226). -/
def RaisesError (i : Instr) (s : State) (c : ErrCode) : Prop :=
  ∃ v, i = .csrWrCtrl v ∧
    ((ctrlAbort v = true ∧ busy s = true ∧ c = .aborted) ∨
     (ctrlAbort v = false ∧ ctrlStart v = true ∧ busy s = true ∧ c = .busyStart) ∨
     (ctrlAbort v = false ∧ ctrlStart v = true ∧ busy s = false ∧ s.cfg.shaPresent = false ∧
       c = .digestUnavailable))

/-- Every event keeps the error record, clears ERR and ERRCODE together, or records an error of which it is a cause. -/
theorem exec_errRecord {i : Instr} {s t : State} (h : exec i s = .next t) :
    (t.err = s.err ∧ t.errcode = s.errcode) ∨ (t.err = false ∧ t.errcode = .none) ∨
      (t.err = true ∧ RaisesError i s t.errcode) := by
  cases exec_flagChange h with
  | kept _ e | lastByte _ e | digestOnlyEnd _ e =>
    obtain ⟨-, -, herr, hcode⟩ := Flags.mk.inj e
    exact .inl ⟨herr, hcode⟩
  | abort v ha hb e =>
    obtain ⟨-, -, herr, hcode⟩ := Flags.mk.inj e
    exact .inr (.inr ⟨herr, v, rfl, .inl ⟨ha, hb, hcode⟩⟩)
  | startBusy v ha hst hb e =>
    obtain ⟨-, -, herr, hcode⟩ := Flags.mk.inj e
    exact .inr (.inr ⟨herr, v, rfl, .inr (.inl ⟨ha, hst, hb, hcode⟩)⟩)
  | startWithoutSha v ha hst hb hc e =>
    obtain ⟨-, -, herr, hcode⟩ := Flags.mk.inj e
    exact .inr (.inr ⟨herr, v, rfl, .inr (.inr ⟨ha, hst, hb, hc, hcode⟩)⟩)
  | startAccepted _ _ _ _ _ e | reset e =>
    obtain ⟨-, -, herr, hcode⟩ := Flags.mk.inj e
    exact .inr (.inl ⟨herr, hcode⟩)
  | statusWrite v e =>
    obtain ⟨-, -, herr, hcode⟩ := Flags.mk.inj e
    cases hclear : statusClearErr v with
    | false => exact .inl ⟨by simpa [hclear] using herr, by simpa [hclear] using hcode⟩
    | true => exact .inr (.inl ⟨by simpa [hclear] using herr, by simpa [hclear] using hcode⟩)

/-- 1 is the code of INVALID_INPUT alone (R220). -/
theorem ErrCode.code_ne_one {c : ErrCode} (h : c ≠ .invalidInput) : c.code ≠ 1 := by
  cases c with
  | invalidInput => exact absurd rfl h
  | none | digestUnavailable | busyStart | aborted => decide

theorem ErrCode.code_le_four (c : ErrCode) : c.code ≤ 4 := by cases c <;> decide

/-- Settles O16: the invariant in every reachable state, and the three things an event can do to the record. -/
theorem errcodeIsZeroWheneverErrIsZero : Obligations.ErrcodeIsZeroWheneverErrIsZero := by
  refine ⟨fun s hr => ⟨fun he => ?_, ErrCode.code_ne_one hr.inv.neverInvalidInput, s.errcode.code_le_four⟩,
    fun i s t hs h ht => ?_⟩
  · rw [hr.inv.errRecord he]
    rfl
  · obtain ⟨herr, hcode⟩ | ⟨-, hcode⟩ | ⟨herr, -⟩ := exec_errRecord h
    · rw [hcode, hs (herr ▸ ht)]
    · exact hcode
    · simp [herr] at ht

/-- Settles O49: a record that is new is neither kept nor cleared. -/
theorem errorsAreRaisedOnlyByStartAndAbort : Obligations.ErrorsAreRaisedOnlyByStartAndAbort := by
  intro i s t h ht hnew
  obtain ⟨herr, hcode⟩ | ⟨herr, -⟩ | ⟨-, hcause⟩ := exec_errRecord h
  · simp [← herr, hcode, ht] at hnew
  · simp [herr] at ht
  · exact hcause

/-! ### The interrupt output (R230) -/

/-- A flag is set for which `irq` is raised unless IRQ_EN masks it (R230). -/
def Flags.irqCause (f : Flags) : Bool := f.done || f.err

theorem irq_eq (s : State) : irq s = (s.irqEn && (flagsOf s).irqCause) := rfl

theorem FlagChange.irqCause_rises {i : Instr} {s t : State} (hc : FlagChange s t i)
    (hs : (flagsOf s).irqCause = false) (ht : (flagsOf t).irqCause = true) :
    i = .outXfer ∨ i = .finalize ∨ ∃ v, i = .csrWrCtrl v := by
  cases hc with
  | lastByte => exact .inl rfl
  | digestOnlyEnd => exact .inr (.inl rfl)
  | abort v | startBusy v | startWithoutSha v | startAccepted v => exact .inr (.inr ⟨v, rfl⟩)
  | kept _ e => simp [e, hs] at ht
  | reset e => simp [e, Flags.irqCause] at ht
  | statusWrite v e =>
    obtain ⟨hdone, herr⟩ : s.done = false ∧ s.err = false := Bool.or_eq_false_iff.mp hs
    simp [e, Flags.irqCause, hdone, herr] at ht

theorem FlagChange.irqCause_falls {i : Instr} {s t : State} (hc : FlagChange s t i)
    (hs : (flagsOf s).irqCause = true) (ht : (flagsOf t).irqCause = false) :
    (∃ v, i = .csrWrStatus v ∧ (s.done = true → statusClearDone v = true) ∧ (s.err = true → statusClearErr v = true)) ∨
      (∃ v, i = .csrWrCtrl v ∧ ctrlAbort v = false ∧ ctrlStart v = true ∧ busy s = false ∧ s.cfg.shaPresent = true) ∨
      i = .reset := by
  cases hc with
  | startAccepted v ha hst hb hcfg => exact .inr (.inl ⟨v, rfl, ha, hst, hb, hcfg⟩)
  | reset => exact .inr (.inr rfl)
  | kept _ e => simp [e, hs] at ht
  | lastByte _ e | digestOnlyEnd _ e | abort _ _ _ e | startBusy _ _ _ _ e | startWithoutSha _ _ _ _ _ e =>
    simp [e, Flags.irqCause] at ht
  | statusWrite v e =>
    rw [e] at ht
    obtain ⟨hdone, herr⟩ := Bool.or_eq_false_iff.mp ht
    exact .inl ⟨v, rfl, fun hd => by simpa [hd] using hdone, fun he => by simpa [he] using herr⟩

theorem abortOp_irqEn (s : State) : (abortOp s).irqEn = s.irqEn := by
  cases hb : busy s with
  | false => rw [abortOp_of_idle hb]
  | true => rw [abortOp_of_busy hb]

theorem startOp_irqEn (s : State) : (startOp s).irqEn = s.irqEn := by
  obtain ⟨-, e⟩ | ⟨-, -, e⟩ | ⟨-, -, e⟩ := startOp_cases s <;> rw [e] <;> rfl

theorem exec_csrWrCtrl_irqEn {v : Word} {s t : State} (h : exec (.csrWrCtrl v) s = .next t) :
    t.irqEn = v.getLsbD 3 := by
  cases ha : ctrlAbort v with
  | true =>
    rw [exec_csrWrCtrl_of_abort ha] at h
    rw [← Host.Outcome.next.inj h, abortOp_irqEn]
    rfl
  | false =>
    cases hst : ctrlStart v with
    | true =>
      rw [exec_csrWrCtrl_of_start ha hst] at h
      rw [← Host.Outcome.next.inj h, startOp_irqEn]
      rfl
    | false =>
      rw [exec_csrWrCtrl_of_noCommand ha hst] at h
      rw [← Host.Outcome.next.inj h]
      rfl

/-- IRQ_EN is written by CTRL (R32, R186) and by RESET, and by no other event. -/
theorem exec_irqEn {i : Instr} {s t : State} (h : exec i s = .next t) :
    (∃ v, i = .csrWrCtrl v ∧ t.irqEn = v.getLsbD 3) ∨ (i = .reset ∧ t.irqEn = false) ∨ t.irqEn = s.irqEn := by
  obtain ⟨-, v, rfl⟩ | rfl | ⟨v, rfl, -⟩ | ⟨v, rfl, -⟩ | ⟨v, rfl, -⟩ | ⟨v, -, rfl⟩ | ⟨v, -, -, rfl⟩ |
    ⟨b, rfl⟩ | rfl | rfl | rfl | rfl | ⟨rfl, rfl⟩ := exec_cases h
  · exact .inr (.inr rfl)
  · exact .inr (.inr rfl)
  · exact .inl ⟨v, rfl, exec_csrWrCtrl_irqEn h⟩
  · exact .inl ⟨v, rfl, exec_csrWrCtrl_irqEn h⟩
  · exact .inl ⟨v, rfl, exec_csrWrCtrl_irqEn h⟩
  · exact .inr (.inr rfl)
  · exact .inr (.inr rfl)
  · obtain ⟨-, rfl⟩ := execInXfer_eq_next.mp h
    exact .inr (.inr rfl)
  · obtain ⟨-, rfl⟩ := execOutXfer_eq_next.mp h
    exact .inr (.inr rfl)
  · obtain ⟨b, last, p, g, rfl, -⟩ := gen_frame h
    exact .inr (.inr rfl)
  · obtain ⟨-, block, -, rfl⟩ := execCompress_eq_next.mp h
    exact .inr (.inr rfl)
  · obtain ⟨-, block, -, rfl⟩ := execFinalize_eq_next.mp h
    exact .inr (.inr rfl)
  · exact .inr (.inl ⟨rfl, rfl⟩)

/-- Settles O50: `irq` rises or falls with IRQ_EN, which only CTRL and RESET write, or with the flags it reports. -/
theorem irqRisesAndFallsOnlyAsListed : Obligations.IrqRisesAndFallsOnlyAsListed := by
  intro i s t h
  have hflags := exec_flagChange h
  refine ⟨fun hs ht => ?rises, fun hs ht => ?falls⟩
  case rises =>
    obtain ⟨hen, hcause⟩ := Bool.and_eq_true_iff.mp ht
    obtain ⟨v, rfl, hv⟩ | ⟨-, hoff⟩ | hkept := exec_irqEn h
    · exact .inr (.inr ⟨v, rfl, hv.symm.trans hen⟩)
    · simp [hoff] at hen
    · have hnone : (flagsOf s).irqCause = false := by simpa [irq_eq, ← hkept, hen] using hs
      obtain rfl | rfl | ⟨v, rfl⟩ := hflags.irqCause_rises hnone hcause
      · exact .inl rfl
      · exact .inr (.inl rfl)
      · exact .inr (.inr ⟨v, rfl, (exec_csrWrCtrl_irqEn h).symm.trans hen⟩)
  case falls =>
    obtain ⟨hen, hcause⟩ := Bool.and_eq_true_iff.mp hs
    obtain hoff | hnone := Bool.and_eq_false_iff.mp ht
    · obtain ⟨v, rfl, hv⟩ | ⟨rfl, -⟩ | hkept := exec_irqEn h
      · exact .inr (.inl ⟨v, rfl, hv.symm.trans hoff⟩)
      · exact .inr (.inr (.inr rfl))
      · simp [← hkept, hoff] at hen
    · obtain hclear | hstart | rfl := hflags.irqCause_falls hcause hnone
      · exact .inl hclear
      · exact .inr (.inr (.inl hstart))
      · exact .inr (.inr (.inr rfl))

/-! ### A completion in the cycle of a register write (R232) -/

/-- The operation of `s` is complete in `u` (R227), and the error record is the one of `s`. -/
structure Completion (s u : State) : Prop where
  idle : u.phase = .idle
  done : u.done = true
  err : u.err = s.err
  errcode : u.errcode = s.errcode
  cfg : u.cfg = s.cfg

/-- The cycle `p` completes the operation, by OUT of its last byte or by FINALIZE (R227). -/
def CycleIn.completes (p : CycleIn) (s : State) : Prop :=
  (s.ov = true ∧ s.ol = true ∧ p.outReady = true ∧ p.commit = none) ∨
  (s.modeq = .digestOnly ∧ finalizeEnabled s = true ∧ p.commit = some .finalize)

/-- OUT of the last byte completes the operation (R164, R227). -/
theorem outXfer_completes {s : State} (hov : s.ov = true) (hol : s.ol = true) :
    ∃ u, exec .outXfer s = .next u ∧ Completion s u :=
  ⟨_, execOutXfer_eq_next.mpr ⟨hov, rfl⟩, by constructor <;> simp [hol]⟩

/-- FINALIZE completes a DIGEST_ONLY operation (R121, R227). -/
theorem finalize_completes {s : State} (hi : Inv s) (hm : s.modeq = .digestOnly) (hf : finalizeEnabled s = true) :
    ∃ u, exec .finalize s = .next u ∧ Completion s u := by
  obtain ⟨u, hu⟩ := everyEnabledEventCompletes .finalize s hi hf
  obtain ⟨-, block, -, rfl⟩ := execFinalize_eq_next.mp hu
  exact ⟨_, hu, by constructor <;> simp [hm]⟩

/-- A cycle of one completing event and a register write is the write in the completed state (R72). -/
theorem cycle_of_completion {p : CycleIn} {s u : State} {i : Instr} (hr : p.rstN = true) (hre : p.csrRe = false)
    (hl : commitLegal p.commit s = .next s)
    (he : cycleEvents p s = [i, writeEvent p.csrAddr p.csrWdata]) (hx : exec i s = .next u) :
    cycle p s = advanceDraws (exec (writeEvent p.csrAddr p.csrWdata) u) := by
  rw [cycle_of_commitLegal hr (by simp [hre]) hl, he, execAll_cons, hx, andThen_next, execAll_singleton]

/-- Whichever way the operation completes, the cycle's write acts in a completed state. -/
theorem exists_completion_before_write {p : CycleIn} {s : State} (hi : Inv s) (hr : p.rstN = true)
    (hre : p.csrRe = false) (hwe : p.csrWe = true) (hc : p.completes s) :
    ∃ u, Completion s u ∧ s.cfg.shaPresent = true ∧
      cycle p s = advanceDraws (exec (writeEvent p.csrAddr p.csrWdata) u) := by
  obtain ⟨hov, hol, hready, hnone⟩ | ⟨hm, hf, hcommit⟩ := hc
  · obtain ⟨u, hu, hcomp⟩ := outXfer_completes hov hol
    obtain ⟨-, hp, -⟩ := hi.i3 hol
    have hin : inReady s = false := by simp [inReady, hp]
    have hbusy : busy s = true := (busy_iff s).mpr (by simp [hp])
    refine ⟨u, hcomp, (hi.running hbusy).engine, cycle_of_completion hr hre (by rw [hnone]; rfl) ?_ hu⟩
    simp [cycleEvents, hr, hre, hwe, hov, hready, hin, hnone]
  · obtain ⟨u, hu, hcomp⟩ := finalize_completes hi hm hf
    obtain ⟨hp, hnin, -⟩ := (finalizeEnabled_iff s).mp hf
    have hbusy : busy s = true := (busy_iff s).mpr (by simp [hp])
    have hin : inReady s = false := by simp [inReady, hnin]
    have hov : s.ov = false := (hi.i6 hm hbusy).2
    refine ⟨u, hcomp, (hi.running hbusy).engine, cycle_of_completion hr hre ?_ ?_ hu⟩
    · exact commitLegal_eq_next.mpr ⟨rfl, by simp [hcommit, EngineAction.event, enabled, hf]⟩
    · simp [cycleEvents, hr, hre, hwe, hov, hin, hcommit, EngineAction.event]

theorem writeEvent_one (v : Word) : writeEvent 1 v = .csrWrCtrl v := rfl

theorem writeEvent_two (v : Word) : writeEvent 2 v = .csrWrStatus v := rfl

/-- Settles O59: the write is the idle block's, with DONE already set: ABORT does nothing, START is accepted, and the
STATUS write clears DONE. -/
theorem completionInTheSameCycleComesFirst : Obligations.CompletionInTheSameCycleComesFirst := by
  intro s p hi hr hre hwe hc
  obtain ⟨u, hu, hsha, hcycle⟩ := exists_completion_before_write hi hr hre hwe hc
  have hidle : busy u = false := (busy_false_iff u).mpr hu.idle
  rw [hcycle]
  refine ⟨fun haddr habort => ?abort, fun haddr hno hstart => ?start, fun haddr hclear => ?clear⟩
  case abort =>
    rw [haddr, writeEvent_one, exec_csrWrCtrl_of_abort habort, abortOp_of_idle (by exact hidle)]
    exact ⟨_, rfl, hu.idle, hu.done, hu.err, hu.errcode⟩
  case start =>
    rw [haddr, writeEvent_one, exec_csrWrCtrl_of_start hno hstart,
      startOp_of_accepted (by exact hidle) (by exact hu.cfg ▸ hsha)]
    exact ⟨_, rfl, congrArg Flags.busy (flagsOf_acceptStart (withCtrl p.csrWdata u)), rfl, rfl⟩
  case clear =>
    rw [haddr, writeEvent_two, exec_csrWrStatus]
    exact ⟨_, rfl, hu.idle, if_pos hclear⟩

end Sys2Proof.Machine
end

section
/-! The reset and hazards family (spec/70_reset_and_hazards.md R260, R270, R271): what a busy block waits for, the wait
of an under-supplied operation, and the completion of a served one. -/

namespace Sys2Proof.Machine

/-! ### What a busy block waits for (R271) -/

/-- Settles O52: `Inv.exists_enabled`, phase by phase; whether IN is enabled does not depend on its byte. -/
theorem busyBlockAlwaysHasAnEnabledAction : Obligations.BusyBlockAlwaysHasAnEnabledAction := fun _ hi hb =>
  (hi.exists_enabled hb).imp (fun hr _ => hr) id

/-- Settles O53: `workLeft` is a measure of the running operation, event by event (`workLeft_lt`). -/
theorem everyTransferAndActionReducesTheWork : Obligations.EveryTransferAndActionReducesTheWork := fun _ _ _ =>
  workLeft_lt

/-! ### The wait of an under-supplied operation (R260) -/

/-- While the block is busy, `nin` changes by IN and RESET alone: a START, which would clear it, is refused. -/
theorem exec_nin_of_busy {i : Instr} {s t : State} (hb : busy s = true) (h : exec i s = .next t) :
    t.nin = s.nin ∨ (∃ b, i = .inXfer b) ∨ i = .reset := by
  obtain ⟨-, v, rfl⟩ | rfl | ⟨v, -, -, rfl⟩ | ⟨v, -, -, -, rfl⟩ | ⟨v, -, -, -, rfl⟩ | ⟨v, -, rfl⟩ | ⟨v, -, -, rfl⟩ |
    ⟨b, rfl⟩ | rfl | rfl | rfl | rfl | ⟨rfl, -⟩ := exec_cases h
  · exact .inl rfl
  · exact .inl rfl
  · rw [abortOp_of_busy (by exact hb)]
    exact .inl rfl
  · rw [startOp_of_busy (by exact hb)]
    exact .inl rfl
  · exact .inl rfl
  · exact .inl rfl
  · exact .inl rfl
  · exact .inr (.inl ⟨b, rfl⟩)
  · obtain ⟨-, rfl⟩ := execOutXfer_eq_next.mp h
    exact .inl rfl
  · obtain ⟨b, last, p, g, rfl, -⟩ := gen_frame h
    exact .inl rfl
  · obtain ⟨-, block, -, rfl⟩ := execCompress_eq_next.mp h
    exact .inl rfl
  · obtain ⟨-, block, -, rfl⟩ := execFinalize_eq_next.mp h
    exact .inl rfl
  · exact .inr (.inr rfl)

/-- Of the ways out of PAYLOAD (R146), FINALIZE needs every byte of the message; ABORT and RESET do not. -/
theorem payload_left_underSupplied {i : Instr} {s t : State} (hi : Inv s) (hp : s.phase = .payload)
    (hnin : s.nin < s.length) (h : exec i s = .next t) (hne : t.phase ≠ .payload) :
    (∃ v, i = .csrWrCtrl v ∧ ctrlAbort v = true) ∨ i = .reset := by
  have hfinal : i ≠ .finalize := by
    rintro rfl
    obtain ⟨hf, -⟩ := execFinalize_eq_next.mp h
    exact BitVec.ne_of_lt hnin ((finalizeEnabled_iff s).mp hf).2.1
  obtain ⟨v, -, -, -, -, hidle, -⟩ | ⟨-, hpre, -⟩ | ⟨-, hlen, -⟩ | ⟨rfl, -⟩ | ⟨rfl, -⟩ | ⟨-, hdig, -⟩ |
    ⟨v, rfl, ha, -⟩ | ⟨rfl, -⟩ := phaseTransitionsAreTheListedOnes i s t hi h (hp ▸ hne)
  · simp [hp] at hidle
  · simp [hp] at hpre
  · simp [hp] at hlen
  · exact absurd rfl hfinal
  · exact absurd rfl hfinal
  · simp [hp] at hdig
  · exact .inl ⟨v, rfl, ha⟩
  · exact .inr rfl

/-- Settles O54: where PAYLOAD is not left the block is still busy, which keeps DONE clear (I5) and `nin` counting. -/
theorem underSuppliedOperationWaitsInPayload : Obligations.UnderSuppliedOperationWaitsInPayload := by
  intro i s t hi hp hnin h
  by_cases hpt : t.phase = .payload
  · have hbs : busy s = true := (busy_iff s).mpr (by simp [hp])
    have hbt : busy t = true := (busy_iff t).mpr (by simp [hpt])
    have hdone := (exec_keeps_inv hi h).i5 hbt
    obtain hkept | hin | hreset := exec_nin_of_busy hbs h
    · exact .inl ⟨hpt, hdone, .inl hkept⟩
    · exact .inl ⟨hpt, hdone, .inr hin⟩
    · exact .inr (.inr hreset)
  · exact .inr (payload_left_underSupplied hi hp hnin h hpt)

/-! ### The events of a cycle without CSR write and reset -/

/-- The events of an operation that is let run: the host only reads, the other agents carry the operation on. -/
def servesOperation (i : Instr) : Prop := isCsrRead i = true ∨ carriesOn i

theorem carriesOn_event (a : EngineAction) : carriesOn a.event := by
  cases a <;> exact .inr (.inr rfl)

theorem servesOperation_of_mem_cycleEvents {p : CycleIn} {s : State} (hp : p.rstN = true ∧ p.csrWe = false) {i : Instr}
    (h : i ∈ cycleEvents p s) : servesOperation i := by
  simp only [cycleEvents, hp, Bool.true_eq_false, Bool.false_eq_true, if_false, List.append_nil, List.mem_append,
    List.mem_ite_nil_right, List.mem_singleton, Option.mem_toList, Option.map_eq_some_iff] at h
  obtain ((⟨-, rfl⟩ | ⟨-, rfl⟩) | ⟨-, rfl⟩) | ⟨a, -, rfl⟩ := h
  · exact .inl (isCsrRead_readEvent p.csrAddr)
  · exact .inr (.inr (.inl rfl))
  · exact .inr (.inl rfl)
  · exact .inr (carriesOn_event a)

/-! What each cycle input makes occur in a cycle out of reset (R72). -/

theorem inXfer_mem_cycleEvents {p : CycleIn} {s : State} (hr : p.rstN = true) (hready : inReady s = true)
    (hv : p.inValid = true) : .inXfer p.inData ∈ cycleEvents p s := by
  simp [cycleEvents, hr, hready, hv]

theorem outXfer_mem_cycleEvents {p : CycleIn} {s : State} (hr : p.rstN = true) (hov : s.ov = true)
    (hready : p.outReady = true) : .outXfer ∈ cycleEvents p s := by
  simp [cycleEvents, hr, hov, hready]

theorem commit_mem_cycleEvents {p : CycleIn} {a : EngineAction} (hr : p.rstN = true) (hc : p.commit = some a)
    (s : State) : a.event ∈ cycleEvents p s := by
  simp [cycleEvents, hr, hc]

/-! ### A served operation, event by event and cycle by cycle -/

/-- An operation in mode `m` that is running, or has ended by completion. -/
structure Served (m : Mode) (s : State) : Prop where
  inv : Inv s
  modeq : s.modeq = m
  ended : busy s = false → s.done = true

/-- From `s` to `t` no agent but the reading host has acted. -/
def Unmoved (s t : State) : Prop := ∃ r d, t = { s with rdata := r, draws := d }

theorem Unmoved.refl (s : State) : Unmoved s s := ⟨s.rdata, s.draws, rfl⟩

theorem Unmoved.trans {s t u : State} (hst : Unmoved s t) (htu : Unmoved t u) : Unmoved s u := by
  obtain ⟨_, _, rfl⟩ := hst
  obtain ⟨r, d, rfl⟩ := htu
  exact ⟨r, d, rfl⟩

theorem Unmoved.workLeft_eq {s t : State} (h : Unmoved s t) : workLeft t = workLeft s := by
  obtain ⟨_, _, rfl⟩ := h
  rfl

theorem Unmoved.enabled_eq {s t : State} (h : Unmoved s t) {i : Instr} : enabled i t = enabled i s := by
  obtain ⟨_, _, rfl⟩ := h
  cases i <;> rfl

theorem unmoved_of_isCsrRead {i : Instr} {s t : State} (hr : isCsrRead i = true) (h : exec i s = .next t) :
    Unmoved s t := by
  obtain ⟨v, hv⟩ := exec_of_isCsrRead hr s
  exact ⟨some v, s.draws, Host.Outcome.next.inj (h.symm.trans hv)⟩

section
variable {m : Mode} {s t : State}

theorem Served.of_unmoved (hs : Served m s) (h : Unmoved s t) : Served m t := by
  obtain ⟨_, _, rfl⟩ := h
  exact ⟨hs.inv.of_unread rfl, hs.modeq, hs.ended⟩

/-- What carries an operation on clears BUSY only where it sets DONE (R39). -/
theorem Served.carryOn (hs : Served m s) {i : Instr} (hc : carriesOn i) (h : exec i s = .next t) : Served m t where
  inv := exec_keeps_inv hs.inv h
  modeq := (carriesOn_frame hc h).1.trans hs.modeq
  ended hb := by
    cases exec_flagChange h with
    | kept _ e => exact (congrArg Flags.done e).trans (hs.ended ((congrArg Flags.busy e).symm.trans hb))
    | lastByte _ e => exact congrArg Flags.done e
    | digestOnlyEnd _ e => exact congrArg Flags.done e
    | abort | startBusy | startWithoutSha | startAccepted | statusWrite | reset => simp [carriesOn, agentOf] at hc

/-- A list of events leaves less work, or none of them was a transfer or an engine action. -/
theorem Served.of_execAll {is : List Instr} (hs : Served m s) (his : ∀ i ∈ is, servesOperation i)
    (h : execAll is s = .next t) :
    Served m t ∧ (workLeft t < workLeft s ∨ (∀ i ∈ is, ¬ carriesOn i) ∧ Unmoved s t) := by
  induction is generalizing s with
  | nil =>
    obtain rfl := Host.Outcome.next.inj h
    exact ⟨hs, .inr ⟨nofun, .refl s⟩⟩
  | cons i is ih =>
    obtain ⟨hi, his⟩ := List.forall_mem_cons.mp his
    obtain ⟨u, hu, ht⟩ := andThen_eq_next.mp h
    by_cases hc : carriesOn i
    · have hlt := workLeft_lt hs.inv hc hu
      obtain ⟨hst, hlt' | ⟨-, hut⟩⟩ := ih (hs.carryOn hc hu) his ht
      · exact ⟨hst, .inl (hlt'.trans hlt)⟩
      · exact ⟨hst, .inl (hut.workLeft_eq ▸ hlt)⟩
    · have hsu := unmoved_of_isCsrRead (hi.resolve_right hc) hu
      obtain ⟨hst, hlt | ⟨hno, hut⟩⟩ := ih (hs.of_unmoved hsu) his ht
      · exact ⟨hst, .inl (hsu.workLeft_eq ▸ hlt)⟩
      · exact ⟨hst, .inr ⟨List.forall_mem_cons.mpr ⟨hc, hno⟩, hsu.trans hut⟩⟩

/-- The same of a clock cycle in which the host writes nothing and no reset occurs. -/
theorem Served.of_cycle {p : CycleIn} (hs : Served m s) (hp : p.rstN = true ∧ p.csrWe = false)
    (h : cycle p s = .next t) :
    Served m t ∧ (workLeft t < workLeft s ∨ (∀ i ∈ cycleEvents p s, ¬ carriesOn i) ∧ Unmoved s t) := by
  obtain ⟨-, u, hu, rfl⟩ := cycle_eq_next.mp h
  obtain ⟨hsu, hmoved⟩ := hs.of_execAll (fun i => servesOperation_of_mem_cycleEvents hp) hu
  have hdraws : Unmoved u { u with draws := u.draws + 1 } := ⟨u.rdata, u.draws + 1, rfl⟩
  exact ⟨hsu.of_unmoved hdraws, hmoved.imp id fun ⟨hno, hsu⟩ => ⟨hno, hsu.trans hdraws⟩⟩

/-! ### A fair run of a served operation (R270, R271) -/

/-- A fair run from `s`, in which every agent goes on serving the operation. -/
structure ServedRun (m : Mode) (ps : Nat → CycleIn) (s : State) : Prop where
  served : Served m s
  fair : FairRun ps s
  undisturbed : ∀ n, (ps n).rstN = true ∧ (ps n).csrWe = false
  offers : ∀ n, ∃ k, n ≤ k ∧ (ps k).inValid = true
  accepts : m = .frame → ∀ n, ∃ k, n ≤ k ∧ (ps k).outReady = true

/-- What happens infinitely often happens infinitely often from any cycle on. -/
theorem infinitelyOften_add {P : Nat → Prop} (h : ∀ n, ∃ k, n ≤ k ∧ P k) (n k : Nat) : ∃ j, k ≤ j ∧ P (n + j) := by
  obtain ⟨j, hj, hP⟩ := h (n + k)
  exact ⟨j - n, by omega, by rwa [Nat.add_sub_cancel' (by omega)]⟩

theorem runCycles_add (ps : Nat → CycleIn) (n k : Nat) (s : State) :
    runCycles ps (n + k) s = andThen (runCycles ps n s) (runCycles (fun j => ps (n + j)) k) := by
  induction k with
  | zero => exact (andThen_next_self _).symm
  | succ k ih =>
    rw [← Nat.add_assoc, runCycles, ih, andThen_assoc]
    rfl

/-- A fair run goes on with a cycle from each of its states. -/
theorem FairRun.exists_cycle {ps : Nat → CycleIn} (hf : FairRun ps s) {n : Nat} (h : runCycles ps n s = .next t) :
    ∃ u, runCycles ps (n + 1) s = .next u ∧ cycle (ps n) t = .next u := by
  obtain ⟨u, hu⟩ := hf.runs (n + 1)
  exact ⟨u, hu, by rwa [runCycles, h, andThen_next] at hu⟩

/-- A fair run is fair from each of its states on. -/
theorem FairRun.drop {ps : Nat → CycleIn} (hf : FairRun ps s) {n : Nat} (h : runCycles ps n s = .next t) :
    FairRun (fun k => ps (n + k)) t := by
  have hrun (k : Nat) : runCycles (fun j => ps (n + j)) k t = runCycles ps (n + k) s := by
    rw [runCycles_add, h, andThen_next]
  refine ⟨fun k => hrun k ▸ hf.runs (n + k), fun k u a hu ha => ?_⟩
  obtain ⟨j, hj, v, hv, hend⟩ := hf.fair (n + k) u a (hrun k ▸ hu) ha
  rw [Nat.add_assoc] at hv hend
  exact ⟨j, hj, v, (hrun (k + j)).trans hv, hend⟩

variable {ps : Nat → CycleIn}

/-- After any number of cycles there is less work, or everything still waits as at the start. -/
theorem ServedRun.after (hs : ServedRun m ps s) (n : Nat) :
    ∃ t, runCycles ps n s = .next t ∧ Served m t ∧ (workLeft t < workLeft s ∨ Unmoved s t) := by
  induction n with
  | zero => exact ⟨s, rfl, hs.served, .inr (.refl s)⟩
  | succ n ih =>
    obtain ⟨t, ht, hserved, hmoved⟩ := ih
    obtain ⟨u, hu, hcycle⟩ := hs.fair.exists_cycle ht
    obtain ⟨hserved', hmoved'⟩ := hserved.of_cycle (hs.undisturbed n) hcycle
    refine ⟨u, hu, hserved', ?_⟩
    obtain hlt | hst := hmoved <;> obtain hlt' | ⟨-, htu⟩ := hmoved'
    · exact .inl (hlt'.trans hlt)
    · exact .inl (htu.workLeft_eq ▸ hlt)
    · exact .inl (hst.workLeft_eq ▸ hlt')
    · exact .inr (hst.trans htu)

theorem ServedRun.drop (hs : ServedRun m ps s) {n : Nat} (h : runCycles ps n s = .next t) :
    ServedRun m (fun k => ps (n + k)) t where
  served := by
    obtain ⟨u, hu, hserved, -⟩ := hs.after n
    exact Host.Outcome.next.inj (hu.symm.trans h) ▸ hserved
  fair := hs.fair.drop h
  undisturbed k := hs.undisturbed (n + k)
  offers := infinitelyOften_add hs.offers n
  accepts hm := infinitelyOften_add (hs.accepts hm) n

/-- If in cycle `n` a transfer or an engine action occurs, should the block still wait as at the start, then there is
less work at the latest after it. -/
theorem ServedRun.workLeft_lt_of_mem (hs : ServedRun m ps s) {n : Nat} {i : Instr} (hc : carriesOn i)
    (hmem : ∀ t, runCycles ps n s = .next t → Unmoved s t → i ∈ cycleEvents (ps n) t) :
    ∃ k t, runCycles ps k s = .next t ∧ workLeft t < workLeft s := by
  obtain ⟨t, ht, hserved, hlt | hst⟩ := hs.after n
  · exact ⟨n, t, ht, hlt⟩
  · obtain ⟨u, hu, hcycle⟩ := hs.fair.exists_cycle ht
    obtain ⟨-, hlt | ⟨hno, -⟩⟩ := hserved.of_cycle (hs.undisturbed n) hcycle
    · exact ⟨n + 1, u, hu, hst.workLeft_eq ▸ hlt⟩
    · exact absurd hc (hno i (hmem t ht hst))

/-- While the operation runs, what it waits for comes: the producer's offer, the consumer's acceptance, or a commit. -/
theorem ServedRun.exists_workLeft_lt (hs : ServedRun m ps s) (hb : busy s = true) :
    ∃ n t, runCycles ps n s = .next t ∧ workLeft t < workLeft s := by
  obtain hready | hov | ⟨a, ha⟩ := hs.served.inv.exists_enabled hb
  · obtain ⟨n, -, hv⟩ := hs.offers 0
    exact hs.workLeft_lt_of_mem (n := n) (.inl rfl) fun t _ hst =>
      inXfer_mem_cycleEvents (hs.undisturbed n).1 ((hst.enabled_eq (i := .inXfer (ps n).inData)).trans hready) hv
  · have hm : m = .frame := by
      cases hm : m with
      | frame => rfl
      | digestOnly => simp [(hs.served.inv.i6 (hs.served.modeq.trans hm) hb).2] at hov
    obtain ⟨n, -, hv⟩ := hs.accepts hm 0
    exact hs.workLeft_lt_of_mem (n := n) (.inr (.inl rfl)) fun t _ hst =>
      outXfer_mem_cycleEvents (hs.undisturbed n).1 ((hst.enabled_eq (i := .outXfer)).trans hov) hv
  · obtain ⟨n, -, u, hu, hcommit⟩ := hs.fair.fair 0 s a rfl ha
    rw [Nat.zero_add] at hu hcommit
    refine hs.workLeft_lt_of_mem (n := n) (carriesOn_event a) fun t ht hst => ?_
    obtain rfl := Host.Outcome.next.inj (ht.symm.trans hu)
    have hen : enabled a.event t = true := hst.enabled_eq.trans ha
    exact commit_mem_cycleEvents (hs.undisturbed n).1 (hcommit.resolve_right (by simp [hen])) t

/-- By induction on the work left, as less and less of it is left while the operation runs. -/
theorem ServedRun.completes (hs : ServedRun m ps s) :
    ∃ n t, runCycles ps n s = .next t ∧ t.phase = .idle ∧ t.done = true := by
  induction hw : workLeft s using Nat.strong_induction_on generalizing ps s with
  | _ w ih =>
    cases hb : busy s with
    | false => exact ⟨0, s, rfl, (busy_false_iff s).mp hb, hs.served.ended hb⟩
    | true =>
      obtain ⟨n, u, hu, hlt⟩ := hs.exists_workLeft_lt hb
      obtain ⟨k, t, ht, hend⟩ := ih _ (hw ▸ hlt) (hs.drop hu) rfl
      exact ⟨n + k, t, by rw [runCycles_add, hu, andThen_next, ht], hend⟩

end

/-- Settles O55: the hypotheses make a served run, and a served run completes (`ServedRun.completes`). -/
theorem fairRunCompletesTheOperation : Obligations.FairRunCompletesTheOperation := fun _ _ hi hb hfair hhost hin hout =>
  ServedRun.completes ⟨⟨hi, rfl, fun hidle => by simp [hb] at hidle⟩, hfair, hhost, hin, hout⟩

end Sys2Proof.Machine
end

section
/-! The words printed in the spec's test vectors (spec/95_test_vectors.md): each is the encoding of the event beside it,
so the round trip of R80 decodes it. -/

namespace Sys2Proof

theorem decode_of_encode_eq {w : EventWord} {i : Instr} (hwf : i.wf = true) (h : encode i = w) : decode w = .ok i :=
  h ▸ decodeOfEncodeIsTheEvent i hwf

/-- Settles O5, word by word: its event is well formed and encodes to it. -/
theorem specWordsDecodeToTheirEvents : Obligations.SpecWordsDecodeToTheirEvents := by
  unfold Obligations.SpecWordsDecodeToTheirEvents
  and_intros <;> exact decode_of_encode_eq rfl rfl

end Sys2Proof
end
